-- ==== Sys2Proof/Word.lean ====
section
/-! DEFINITION. The widths the block works with: the command word, a channel byte, a colour, a symbol. -/

namespace Sys2Proof

/-- A command word, `CMD_W` = 32 bits (30_encoding R70). -/
abbrev Word := BitVec 32

/-- One channel value, an unsigned byte (30_encoding R74). -/
abbrev Byte := BitVec 8

/-- A colour in wire order, `{g, r, b}` (20_memory R50). -/
abbrev Color := BitVec 24

/-- The 24 bits of a command word that are no colour, `sbz` or ignored (30_encoding R71, R76). -/
abbrev LowBits := BitVec 24

/-- A bit-symbol: `true` is the 1-symbol (00_scope R15; 40_bit_encoder R91, "24 booleans"). -/
abbrev Sym := Bool

end Sys2Proof
end

