-- ==== Sys2Proof/Syntax.lean ====
section
/-! DEFINITION. The command set: one constructor per row of spec/opcode_table.json (30_encoding R71, R72; log entry 6). -/

namespace Sys2Proof

/-- The commands. Bits a command ignores are operands here (`sbz`, `ignored`), so that decoding drops no bit. The seven
reserved rows carry the opcode, as `RESERVED(op)` of 30_encoding R73 does. -/
inductive Instr where
  /-- NOP, op 0x00 (42_commands R132). -/
  | nop (sbz : LowBits)
  /-- SEND, op 0x01 (R133). -/
  | send (g r b : Byte)
  /-- HOLD, op 0x02 (R134). -/
  | hold (sbz : LowBits)
  /-- RESERVED, op 0x03 (R135). -/
  | reserved03 (op : Byte) (ignored : LowBits)
  /-- RESERVED, op 0x04 to 0x07 (R135). -/
  | reserved04 (op : Byte) (ignored : LowBits)
  /-- RESERVED, op 0x08 to 0x0F (R135). -/
  | reserved08 (op : Byte) (ignored : LowBits)
  /-- RESERVED, op 0x10 to 0x1F (R135). -/
  | reserved10 (op : Byte) (ignored : LowBits)
  /-- RESERVED, op 0x20 to 0x3F (R135). -/
  | reserved20 (op : Byte) (ignored : LowBits)
  /-- RESERVED, op 0x40 to 0x7F (R135). -/
  | reserved40 (op : Byte) (ignored : LowBits)
  /-- RESERVED, op 0x80 to 0xFF (R135). -/
  | reserved80 (op : Byte) (ignored : LowBits)
  deriving DecidableEq, Repr

end Sys2Proof
end

