-- ==== Sys2Proof/WellFormed.lean ====
section
/-! DEFINITION. Which terms of `Instr` stand for a command: a reserved row's opcode lies in the row's block
(spec/opcode_table.json; 30_encoding R72, R75). NOP, SEND and HOLD admit every operand (R74, R76). -/

namespace Sys2Proof

/-- The opcode lies in the closed range. -/
def opWithin (lo hi : Nat) (op : Byte) : Bool := decide (lo ≤ op.toNat) && decide (op.toNat ≤ hi)

/-- Well-formed commands. -/
def Instr.wf : Instr → Bool
  | .nop _ => true
  | .send _ _ _ => true
  | .hold _ => true
  | .reserved03 op _ => opWithin 0x03 0x03 op
  | .reserved04 op _ => opWithin 0x04 0x07 op
  | .reserved08 op _ => opWithin 0x08 0x0F op
  | .reserved10 op _ => opWithin 0x10 0x1F op
  | .reserved20 op _ => opWithin 0x20 0x3F op
  | .reserved40 op _ => opWithin 0x40 0x7F op
  | .reserved80 op _ => opWithin 0x80 0xFF op

end Sys2Proof
end

