-- ==== Sys2Proof/Decode.lean ====
section
/-! DEFINITION. Format `CMD` (30_encoding R71), the decoder, total on every 32-bit word (R73), the encoder written from
the same table, and the opcode table's rows as data. -/

namespace Sys2Proof

/-- `op` = bits 31:24 (30_encoding R71). -/
def opField (w : Word) : Byte := w.extractLsb' 24 8
/-- `g` = bits 23:16. -/
def gField (w : Word) : Byte := w.extractLsb' 16 8
/-- `r` = bits 15:8. -/
def rField (w : Word) : Byte := w.extractLsb' 8 8
/-- `b` = bits 7:0. -/
def bField (w : Word) : Byte := w.extractLsb' 0 8
/-- Bits 23:0: SEND's colour, every other command's `sbz` (30_encoding R71, R73). -/
def lowField (w : Word) : LowBits := w.extractLsb' 0 24

/-- The decoder of 30_encoding R73; its last case, `RESERVED(op)`, is spread over the reserved rows of the table. -/
def decode (w : Word) : Instr :=
  if opField w = 0x00 then .nop (lowField w)
  else if opField w = 0x01 then .send (gField w) (rField w) (bField w)
  else if opField w = 0x02 then .hold (lowField w)
  else if opField w = 0x03 then .reserved03 (opField w) (lowField w)
  else if opField w ≤ 0x07 then .reserved04 (opField w) (lowField w)
  else if opField w ≤ 0x0F then .reserved08 (opField w) (lowField w)
  else if opField w ≤ 0x1F then .reserved10 (opField w) (lowField w)
  else if opField w ≤ 0x3F then .reserved20 (opField w) (lowField w)
  else if opField w ≤ 0x7F then .reserved40 (opField w) (lowField w)
  else .reserved80 (opField w) (lowField w)

/-- An opcode in front of 24 further bits (30_encoding R71). -/
def cmdWord (op : Byte) (low : LowBits) : Word := op ++ low

/-- The encoder: the word of a command, from the patterns of 30_encoding R71, R72. -/
def encode : Instr → Word
  | .nop sbz => cmdWord 0x00 sbz
  | .send g r b => cmdWord 0x01 (g ++ r ++ b)
  | .hold sbz => cmdWord 0x02 sbz
  | .reserved03 op ignored => cmdWord op ignored
  | .reserved04 op ignored => cmdWord op ignored
  | .reserved08 op ignored => cmdWord op ignored
  | .reserved10 op ignored => cmdWord op ignored
  | .reserved20 op ignored => cmdWord op ignored
  | .reserved40 op ignored => cmdWord op ignored
  | .reserved80 op ignored => cmdWord op ignored

/-- Why a string of bits is no command word. -/
inductive DecodeError where
  /-- Not a string of at most 32 bits: "Every command is one 32-bit word" (30_encoding R70, R78). -/
  | notOneWord (nbits : Nat)
  /-- The number does not fit the number of bits given with it. -/
  | tooManyBits (nbits w : Nat)
  deriving DecidableEq, Repr

/-- Decoding a string of `nbits` bits with value `w`, bits above `nbits` read as 0; anything but one word is rejected by
name (30_encoding R70; log entry 7). -/
def decodeBits (nbits w : Nat) : Except DecodeError Instr :=
  if 32 < nbits then .error (.notOneWord nbits)
  else if 2 ^ nbits ≤ w then .error (.tooManyBits nbits w)
  else .ok (decode (BitVec.ofNat 32 w))

/-- What the decoder reads from an instruction whose bits are `w`, numbered as spec/opcode_table.json numbers them. -/
def decodeTableWord (nbits w : Nat) : Option Instr :=
  match decodeBits nbits w with
  | .ok i => some i
  | .error _ => none

/-- One row of spec/opcode_table.json. -/
structure OpcodeRow where
  mnemonic : String
  pattern : Word
  mask : Word
  deriving DecidableEq, Repr

/-- The table's ten rows, in its order: mnemonic, `match`, `mask`. -/
def opcodeRows : List OpcodeRow :=
  [ ⟨"NOP", 0x00000000, 0xFF000000⟩,
    ⟨"SEND", 0x01000000, 0xFF000000⟩,
    ⟨"HOLD", 0x02000000, 0xFF000000⟩,
    ⟨"RESERVED", 0x03000000, 0xFF000000⟩,
    ⟨"RESERVED", 0x04000000, 0xFC000000⟩,
    ⟨"RESERVED", 0x08000000, 0xF8000000⟩,
    ⟨"RESERVED", 0x10000000, 0xF0000000⟩,
    ⟨"RESERVED", 0x20000000, 0xE0000000⟩,
    ⟨"RESERVED", 0x40000000, 0xC0000000⟩,
    ⟨"RESERVED", 0x80000000, 0x80000000⟩ ]

/-- A word belongs to a row. -/
def OpcodeRow.matchesWord (r : OpcodeRow) (w : Word) : Bool := (w &&& r.mask) == r.pattern

/-- The place in `opcodeRows` of the row a command belongs to. -/
def Instr.row : Instr → Fin 10
  | .nop _ => 0
  | .send _ _ _ => 1
  | .hold _ => 2
  | .reserved03 _ _ => 3
  | .reserved04 _ _ => 4
  | .reserved08 _ _ => 5
  | .reserved10 _ _ => 6
  | .reserved20 _ _ => 7
  | .reserved40 _ _ => 8
  | .reserved80 _ _ => 9

/-- The command is a reserved one, `RESERVED(op)` (30_encoding R75). -/
def Instr.reservedOp? : Instr → Option Byte
  | .nop _ => none
  | .send _ _ _ => none
  | .hold _ => none
  | .reserved03 op _ => some op
  | .reserved04 op _ => some op
  | .reserved08 op _ => some op
  | .reserved10 op _ => some op
  | .reserved20 op _ => some op
  | .reserved40 op _ => some op
  | .reserved80 op _ => some op

/-- The colour a command sends, if it is SEND (30_encoding R74: `{g, r, b}`). -/
def Instr.sendColor? : Instr → Option Color
  | .nop _ => none
  | .send g r b => some (g ++ r ++ b)
  | .hold _ => none
  | .reserved03 _ _ => none
  | .reserved04 _ _ => none
  | .reserved08 _ _ => none
  | .reserved10 _ _ => none
  | .reserved20 _ _ => none
  | .reserved40 _ _ => none
  | .reserved80 _ _ => none

end Sys2Proof
end

