-- ==== Sys2Proof/Machine/Operands.lean ====
section
/-! DEFINITION. The only operand of a command, SEND's colour: three bytes in wire order, Green at the high end, copied
unchanged (20_memory R50, 30_encoding R74). -/

namespace Sys2Proof.Machine

/-- `{g, r, b}` (30_encoding R74). -/
def colorOf (g r b : Byte) : Color := g ++ r ++ b

/-- Green, the first byte on the line: `frame[23:16]` (20_memory R50). -/
def greenOf (c : Color) : Byte := c.extractLsb' 16 8
/-- Red: `frame[15:8]`. -/
def redOf (c : Color) : Byte := c.extractLsb' 8 8
/-- Blue: `frame[7:0]`. -/
def blueOf (c : Color) : Byte := c.extractLsb' 0 8

end Sys2Proof.Machine
end

