-- ==== Sys2Proof/Machine/Calibration.lean ====
section
/-! DEFINITION. From nanoseconds to clock cycles, and the checks W1 to W5 on a configuration's counts
(00_scope R8, R13; 41_pulse_transmitter R100 to R102). Functions of plain numbers. -/

namespace Sys2Proof.Machine

/-- `ceil_div` of 00_scope R13. -/
def ceilDiv (a b : Nat) : Nat := (a + b - 1) / b

/-- `round_div` of 00_scope R13: round half up. -/
def roundDiv (a b : Nat) : Nat := (2 * a + b) / (2 * b)

/-- Nanoseconds in one second. -/
def nsPerSecond : Nat := 1000000000

/-- Nominal high time of a 0-symbol, ns (00_scope R8, 41_pulse R100). -/
def t0hNs : Nat := 350
/-- Nominal low time of a 0-symbol, ns. -/
def t0lNs : Nat := 800
/-- Nominal high time of a 1-symbol, ns. -/
def t1hNs : Nat := 700
/-- Nominal low time of a 1-symbol, ns. -/
def t1lNs : Nat := 600
/-- Protocol minimum of the reset low time, ns. -/
def resetMinNs : Nat := 50000
/-- The default of `TRESET_NS`, ns (00_scope R8, D4, 93 U7). -/
def tresetDefaultNs : Nat := 50000

/-- A pulse count: the nearest cycle, halves up, never 0 (41_pulse R101). -/
def pulseCycles (ns fClkHz : Nat) : Nat := max 1 (roundDiv (ns * fClkHz) nsPerSecond)

/-- A hold count: rounded up, so never shorter than asked (41_pulse R101). -/
def holdCycles (ns fClkHz : Nat) : Nat := ceilDiv (ns * fClkHz) nsPerSecond

/-- The largest of the five counts (10_state R21, 41_pulse R102 W5). -/
def maxCount (t0h t0l t1h t1l treset : Nat) : Nat := max (max (max t0h t0l) (max t1h t1l)) treset

/-- The bit length of a number: the least `w` with `n < 2^w` (00_scope R8, `CNT_W`). -/
def bitLength (n : Nat) : Nat := if n = 0 then 0 else Nat.log2 n + 1

/-- W1 of 41_pulse R102: every count is at least 1. -/
def checkW1 (t0h t0l t1h t1l treset : Nat) : Bool :=
  decide (1 ≤ t0h) && decide (1 ≤ t0l) && decide (1 ≤ t1h) && decide (1 ≤ t1l) && decide (1 ≤ treset)

/-- W2: short-high and long-high are distinguishable. -/
def checkW2 (t0h t1h : Nat) : Bool := decide (t0h < t1h)

/-- W3: the hold meets the protocol minimum. -/
def checkW3 (treset resetMin : Nat) : Bool := decide (resetMin ≤ treset)

/-- W4: no low inside a frame is as long as a reset. -/
def checkW4 (t0l t1l resetMin : Nat) : Bool := decide (max t0l t1l < resetMin)

/-- W5: the counter holds the largest count. -/
def checkW5 (cntW t0h t0l t1h t1l treset : Nat) : Bool :=
  decide (maxCount t0h t0l t1h t1l treset < 2 ^ cntW)

/-- A configuration is admitted only if W1 to W5 all hold (41_pulse R102). -/
def admittedCounts (t0h t0l t1h t1l treset resetMin cntW : Nat) : Bool :=
  checkW1 t0h t0l t1h t1l treset && checkW2 t0h t1h && checkW3 treset resetMin &&
    checkW4 t0l t1l resetMin && checkW5 cntW t0h t0l t1h t1l treset

end Sys2Proof.Machine
end

