-- ==== Sys2Proof/Config.lean ====
section
/-! DEFINITION. What is fixed when the block is built (00_scope R8, 10_state R30), the reference configuration, and the
free constants: the build of the machine after reset and the registers at power-up. -/

namespace Sys2Proof

/-- The build parameters of 00_scope R8. `FRAME_BITS` = 24 and `CMD_W` = 32 are the widths of `Color` and `Word`;
`RESET_MIN_CYC` is derived; `CLK_PPM` and `BUS_MAP` are outside the model (R8). -/
structure Config where
  /-- `F_CLK_HZ`, a positive integer. -/
  fClkHz : Nat
  /-- `T0H_CYC`. -/
  t0h : Nat
  /-- `T0L_CYC`. -/
  t0l : Nat
  /-- `T1H_CYC`. -/
  t1h : Nat
  /-- `T1L_CYC`. -/
  t1l : Nat
  /-- `TRESET_CYC`. -/
  treset : Nat
  /-- `CNT_W`. -/
  cntW : Nat
  deriving DecidableEq, Repr

/-- `RESET_MIN_CYC` (41_pulse R101). -/
def Config.resetMin (c : Config) : Nat := Machine.holdCycles Machine.resetMinNs c.fClkHz

/-- The largest count of the configuration (10_state R21). -/
def Config.maxCount (c : Config) : Nat := Machine.maxCount c.t0h c.t0l c.t1h c.t1l c.treset

/-- W1 to W5 (41_pulse R102). `F_CLK_HZ` = 0 fails W4, since then `RESET_MIN_CYC` = 0. -/
def Config.admitted (c : Config) : Bool :=
  Machine.admittedCounts c.t0h c.t0l c.t1h c.t1l c.treset c.resetMin c.cntW

/-- The counts derived from the clock by 41_pulse R101; `TRESET_NS` is 50 000 unless given (00_scope R8). -/
def Config.derived (fClkHz cntW : Nat) (tresetNs : Nat := Machine.tresetDefaultNs) : Config :=
  { fClkHz := fClkHz
    t0h := Machine.pulseCycles Machine.t0hNs fClkHz
    t0l := Machine.pulseCycles Machine.t0lNs fClkHz
    t1h := Machine.pulseCycles Machine.t1hNs fClkHz
    t1l := Machine.pulseCycles Machine.t1lNs fClkHz
    treset := Machine.holdCycles tresetNs fClkHz
    cntW := cntW }

/-- `REF20` (00_scope R9): a test configuration, no claim about any real clock. -/
def Config.ref20 : Config :=
  { fClkHz := 20000000, t0h := 7, t0l := 16, t1h := 14, t1l := 12, treset := 1000, cntW := 10 }

/-- An admitted configuration: "A model refuses a configuration that fails any check. It gives that configuration no
behaviour" (41_pulse R102), so only an admitted one can stand in a State. The default is there for tests alone. -/
structure Build where
  cfg : Config := Config.ref20
  ok : cfg.admitted = true := by decide
  deriving DecidableEq, Repr, Inhabited

/-- Building the block from counts given directly (41_pulse R101, R102; 93 U4): refused when a check fails. -/
def Config.build? (c : Config) : Option Build := if h : c.admitted = true then some ⟨c, h⟩ else none

/-- Building the block from a clock frequency and `TRESET_NS` (00_scope R8: at least `RESET_MIN_NS`; log entry 13). -/
def Config.derive? (fClkHz cntW : Nat) (tresetNs : Nat := Machine.tresetDefaultNs) : Option Build :=
  if Machine.resetMinNs ≤ tresetNs then (Config.derived fClkHz cntW tresetNs).build? else none

/-- The REF20 build, for tests. -/
def Build.ref20 : Build := { cfg := Config.ref20 }

/-- The build of the machine after reset: SOME admitted configuration, free (00_scope R8: `F_CLK_HZ` is OPEN).
DESIGN CHOICE, log entry 1. -/
opaque Config.build : Build

/-- What the host drives on `rst` once the inputs given to a run are used up, cycle by cycle: free, "Its inputs are free in
every cycle" (00_scope R7). Log entry 4. -/
opaque Config.hostRst : Nat → Bool
/-- See `Config.hostRst`: `cmd_valid`. -/
opaque Config.hostCmdValid : Nat → Bool
/-- See `Config.hostRst`: `cmd_word`. -/
opaque Config.hostCmdWord : Nat → Word

/-- Register values at power-up, unspecified (70_reset R192, 93 U1); free. Log entry 9. -/
opaque Config.powerUpPhase : BitVec 2
/-- See `Config.powerUpPhase`. -/
opaque Config.powerUpFrame : Color
/-- See `Config.powerUpPhase`. -/
opaque Config.powerUpBitidx : BitVec 5
/-- See `Config.powerUpPhase`; used modulo `2^CNT_W`. -/
opaque Config.powerUpCnt : Nat
/-- See `Config.powerUpPhase`. -/
opaque Config.powerUpErr : Bool

end Sys2Proof
end

