-- ==== Sys2Proof/Machine/Encoder.lean ====
section
/-! DEFINITION. The Bit Encoder (40_bit_encoder R90 to R94) and its inverse. -/

namespace Sys2Proof.Machine

/-- `FRAME_BITS` (00_scope R8). -/
def frameBits : Nat := 24

/-- `sym(c, k)`: symbol `k` of colour `c`, the most significant bit first; 0 for `k > 23` (40_bit_encoder R90). -/
def sym (c : Color) (k : BitVec 5) : Sym :=
  if k.toNat ≤ 23 then c.getLsbD (23 - k.toNat) else false

/-- `enc(c)`: the 24 symbols in the order they go out (40_bit_encoder R90). -/
def enc (c : Color) : List Sym := (List.range frameBits).map fun k => sym c (BitVec.ofNat 5 k)

/-- The number whose binary digits, most significant first, are the symbols (40_bit_encoder R94; 43_line R154). -/
def symbolsValue : List Sym → Nat
  | [] => 0
  | b :: bs => b.toNat * 2 ^ bs.length + symbolsValue bs

/-- The number of 1-symbols of a colour (41_pulse R112, `n1 = popcount(c)`). -/
def popcount (c : Color) : Nat := (enc c).countP id

end Sys2Proof.Machine
end

