-- ==== Sys2Proof/Machine/Durations.lean ====
section
/-! DEFINITION. Durations in cycles: of a symbol's segments (41_pulse R103), of a frame and of a SEND (R111, R112), and
the bound of R116. -/

namespace Sys2Proof.Machine

/-- `TH(b)`: the high time of a symbol (41_pulse R103). -/
def th (c : Config) (b : Sym) : Nat := if b then c.t1h else c.t0h

/-- `TL(b)`: the low time of a symbol (41_pulse R103). -/
def tl (c : Config) (b : Sym) : Nat := if b then c.t1l else c.t0l

/-- `P_k = TH(b_k) + TL(b_k)` (41_pulse R111). -/
def pairCycles (c : Config) (b : Sym) : Nat := th c b + tl c b

/-- `S(c)`, the cycles of the 24 pulse pairs of a colour, as a sum of `P_k` (41_pulse R111). -/
def frameCycles (c : Config) (color : Color) : Nat := ((enc color).map (pairCycles c)).sum

/-- `D_SEND(c) = S(c) + TRESET_CYC`, the cycles a SEND keeps the block busy (41_pulse R112). -/
def sendCycles (c : Config) (color : Color) : Nat := frameCycles c color + c.treset

/-- `PMAX`, the longer of the two pulse pairs (41_pulse R116). -/
def pairMax (c : Config) : Nat := max (c.t0h + c.t0l) (c.t1h + c.t1l)

/-- The time `n` cycles last, in nanoseconds, on a clock that runs at exactly `F_CLK_HZ` (00_scope R14; log entry 18). -/
def durationNs (c : Config) (n : Nat) : Rat := (n * nsPerSecond : Nat) / (c.fClkHz : Rat)

end Sys2Proof.Machine
end

