-- ==== Sys2Proof/Machine/State.lean ====
section
/-! DEFINITION. The block's state as plain data (10_state R21, R31), the reasons a step could stop, the state after
reset (R36) and the state at power-up (70_reset R192). -/

namespace Sys2Proof.Machine

/-- The sequencing state (10_state R22). -/
inductive Phase where
  /-- `IDLE`: a command may be accepted. -/
  | idle
  /-- `HIGH`: the high segment of symbol `bitidx`. -/
  | high
  /-- `LOW`: the low segment of symbol `bitidx`. -/
  | low
  /-- `RST`: the reset hold. -/
  | rst
  deriving DecidableEq, Repr

/-- The input ports in one cycle, `in(t)` (10_state R31, 00_scope R12). -/
structure PortIn where
  /-- `rst`, synchronous, active high. -/
  rst : Bool
  /-- `cmd_valid`. -/
  cmdValid : Bool
  /-- `cmd_word`, ignored when `cmd_valid` is 0. -/
  cmdWord : Word
  deriving DecidableEq, Repr

/-- The host once the inputs given to a run are used up (log entry 4). -/
inductive HostAfter where
  /-- It has no further command to offer and asserts no reset, as at the end of a finite run (43_line R159). -/
  | silent
  /-- It drives whatever it likes, for ever: in the cycle numbered `n` the free values `Config.hostRst n`,
  `Config.hostCmdValid n`, `Config.hostCmdWord n` (00_scope R7). -/
  | free (n : Nat)
  deriving DecidableEq, Repr

/-- An unending input sequence `in(t), in(t+1), ...` as plain data: the inputs of the first cycles, one entry each, and the
host after them. -/
structure Inputs where
  given : List PortIn
  after : HostAfter
  deriving DecidableEq, Repr

/-- The output ports in one cycle (10_state R31). -/
structure PortOut where
  cmdReady : Bool
  busy : Bool
  err : Bool
  dout : Bool
  deriving DecidableEq, Repr

/-- Everything a cycle depends on: the five registers of 10_state R21, the build parameters (fixed, log entry 1) and the
inputs the host drives from this cycle on (log entry 4). -/
structure State where
  /-- `phase`, 2 bits (R22). -/
  phase : Phase
  /-- `frame`, 24 bits (R23). -/
  frame : Color
  /-- `bitidx`, 5 bits (R24). -/
  bitidx : BitVec 5
  /-- `cnt`, `CNT_W` bits, the segment down-counter (R25; log entry 3). -/
  cnt : Nat
  /-- `err`, sticky (R26). -/
  err : Bool
  /-- The build-time configuration; no step changes it (R30). -/
  build : Build
  /-- The inputs of this cycle and of every cycle after it. -/
  inputs : Inputs
  deriving DecidableEq, Repr

/-- The configuration a state runs under. -/
def State.cfg (s : State) : Config := s.build.cfg

/-- Why a step could stop with a fault: never. "No command, input or state makes it stop, hang or enter a fault state"
(60_exceptions R170), so this type has no constructor (log entry 11). -/
inductive Fault
  deriving DecidableEq, Repr

/-- Why a step could be refused. -/
inductive Refusal where
  /-- Raised by `exec` alone, for a command that has no meaning yet; no arm raises it in this model. Safe. -/
  | notModelled (mnemonic : String)
  deriving DecidableEq, Repr

/-- `S_RESET` (10_state R36) of a build, with the inputs that follow. -/
def State.resetFor (b : Build) (inputs : Inputs) : State :=
  { phase := .rst, frame := 0, bitidx := 0, cnt := b.cfg.treset, err := false, build := b, inputs := inputs }

/-- The machine right after reset: `S_RESET` of the free build, under a host whose inputs are free in every cycle (log
entries 1, 4). -/
def State.reset : State := State.resetFor Config.build { given := [], after := .free 0 }

end Sys2Proof.Machine
end

