-- ==== Sys2Proof/Machine/Flags.lean ====
section
/-! DEFINITION. The status flags and the outputs, functions of the current state alone (10_state R28, R29; 41_pulse
R105), and the one operation on a flag. -/

namespace Sys2Proof.Machine

/-- `cmd_ready` (10_state R29). -/
def State.cmdReady (s : State) : Bool := s.phase == .idle

/-- `busy` (10_state R28, R29). -/
def State.busy (s : State) : Bool := s.phase != .idle

/-- The line, `dout` (41_pulse R105). -/
def State.dout (s : State) : Bool := s.phase == .high

/-- All outputs of a cycle (10_state R29, R31). -/
def State.out (s : State) : PortOut :=
  { cmdReady := s.cmdReady, busy := s.busy, err := s.err, dout := s.dout }

/-- The status word: `status[1:0] = {err, busy}`, every other bit 0, at whatever width a host reads it
(10_state R29; log entry 12). -/
def State.status (s : State) (width : Nat) : BitVec width :=
  (BitVec.ofBool s.err ++ BitVec.ofBool s.busy).setWidth width

/-- `set_err` (00_scope R13): the sticky flag is set (60_exceptions R171, R172). -/
def State.setErr (s : State) : State := { s with err := true }

/-- The code of the one error indication (60_exceptions R171). -/
inductive ErrorCode where
  /-- A command with a reserved opcode was accepted. -/
  | reservedOpcode
  deriving DecidableEq, Repr

/-- What the host can tell from `err` (60_exceptions R171): no opcode and no operand is recorded. -/
def State.errorIndication (s : State) : Option ErrorCode := if s.err then some .reservedOpcode else none

end Sys2Proof.Machine
end

