-- ==== Sys2Proof/Machine/Ops.lean ====
section
/-! DEFINITION. The named operations over the registers and the host's inputs. The block takes no exception and returns
from none (60_exceptions R170, R175, R176): there is no trap entry to write here; the one event that redirects the
machine is `rst`, `State.toReset`. -/

namespace Sys2Proof.Machine

/-- The 2-bit encoding of `phase` (10_state R22). -/
def Phase.bits : Phase → BitVec 2
  | .idle => 0b00
  | .high => 0b01
  | .low => 0b10
  | .rst => 0b11

/-- Every 2-bit value is a phase: "No value of `phase` is illegal" (10_state R22). -/
def Phase.ofBits (b : BitVec 2) : Phase :=
  if b = 0b00 then .idle else if b = 0b01 then .high else if b = 0b10 then .low else .rst

/-- A cycle in which the host drives nothing: no reset, no command (42_commands R131). -/
def PortIn.quiet : PortIn := { rst := false, cmdValid := false, cmdWord := 0 }

/-- What the host drives in its first cycle after the given inputs (log entry 4). -/
def HostAfter.now : HostAfter → PortIn
  | .silent => PortIn.quiet
  | .free n => { rst := Config.hostRst n, cmdValid := Config.hostCmdValid n, cmdWord := Config.hostCmdWord n }

/-- The host after the given inputs, one cycle later. -/
def HostAfter.later : HostAfter → HostAfter
  | .silent => .silent
  | .free n => .free (n + 1)

/-- The inputs of the current cycle. -/
def Inputs.now (x : Inputs) : PortIn := x.given.headD x.after.now

/-- The inputs from the next cycle on. -/
def Inputs.tail (x : Inputs) : Inputs :=
  match x.given with
  | [] => { x with after := x.after.later }
  | _ :: rest => { x with given := rest }

/-- One cycle's inputs in front of a sequence. -/
def Inputs.cons (x : Inputs) (i : PortIn) : Inputs := { x with given := i :: x.given }

/-- The inputs of the next `n` cycles, exactly `n` of them. -/
def Inputs.take (x : Inputs) : Nat → List PortIn
  | 0 => []
  | n + 1 => x.now :: x.tail.take n

/-- The inputs from `n` cycles later on. -/
def Inputs.drop (x : Inputs) : Nat → Inputs
  | 0 => x
  | n + 1 => x.tail.drop n

/-- The inputs of the current cycle, `in(t)` (00_scope R12). -/
def State.input (s : State) : PortIn := s.inputs.now

/-- The clock edge passes on to the next cycle's inputs; no register changes. -/
def State.nextInput (s : State) : State := { s with inputs := s.inputs.tail }

/-- Entering a segment: the phase and the number of cycles it lasts (10_state R25). -/
def State.enter (s : State) (p : Phase) (n : Nat) : State := { s with phase := p, cnt := n }

/-- One more cycle of the current segment has passed. -/
def State.countDown (s : State) : State := { s with cnt := s.cnt - 1 }

/-- The block latches a colour and starts at symbol 0 (42_commands R133). -/
def State.loadColor (s : State) (c : Color) : State := { s with frame := c, bitidx := 0 }

/-- The next symbol becomes the current one (41_pulse R107). -/
def State.nextSymbol (s : State) : State := { s with bitidx := s.bitidx + 1 }

/-- The symbol being sent (40_bit_encoder R93). -/
def State.symbol (s : State) : Sym := sym s.frame s.bitidx

/-- The edge of a cycle with `rst = 1`: `S_RESET`, whatever the registers hold (70_reset R190, 10_state R36). -/
def State.toReset (s : State) : State := State.resetFor s.build s.inputs

/-- `accept(t)` (42_commands R130). -/
def State.accepts (s : State) : Bool := s.input.cmdValid && !s.input.rst && s.phase == .idle

/-- `s` made ready to accept the word `w` in this very cycle: `IDLE` (whose counter is 0, 10_state R25), and `w` offered
in place of this cycle's inputs. -/
def State.offerWord (s : State) (w : Word) : State :=
  { s with phase := .idle, cnt := 0, inputs := s.inputs.tail.cons { rst := false, cmdValid := true, cmdWord := w } }

/-- The block at power-up, before the first reset: every register holds an unspecified value (70_reset R192, 93 U1; log
entry 9). -/
def State.powerUp (b : Build) (inputs : Inputs) : State :=
  { phase := Phase.ofBits Config.powerUpPhase
    frame := Config.powerUpFrame
    bitidx := Config.powerUpBitidx
    cnt := Config.powerUpCnt % 2 ^ b.cfg.cntW
    err := Config.powerUpErr
    build := b
    inputs := inputs }

end Sys2Proof.Machine
end

