-- ==== Sys2Proof/Machine/Commands.lean ====
section
/-! DEFINITION. What each command does at the edge that accepts it (42_commands R132 to R135). None of them stops. -/

namespace Sys2Proof.Machine

/-- `exec_NOP`: no assignment; `sbz` is ignored (42_commands R132, 30_encoding R76). -/
def execNop (_sbz : LowBits) (s : State) : Host.Outcome State Fault Refusal := .next s

/-- `exec_SEND`: the colour is latched and the high segment of symbol 0 begins (42_commands R133). -/
def execSend (g r b : Byte) (s : State) : Host.Outcome State Fault Refusal :=
  .next ((s.loadColor (colorOf g r b)).enter .high (th s.cfg (sym (colorOf g r b) 0)))

/-- `exec_HOLD`: the reset hold begins; `sbz` is ignored (42_commands R134, 30_encoding R76). -/
def execHold (_sbz : LowBits) (s : State) : Host.Outcome State Fault Refusal := .next (s.enter .rst s.cfg.treset)

/-- `exec_RESERVED`, what all reserved opcodes share: `err <- 1`, no opcode is recorded (42_commands R135). -/
def acceptReserved (s : State) : State := s.setErr

/-- Opcode 0x03 (42_commands R135). -/
def execReserved03 (_op : Byte) (_ignored : LowBits) (s : State) : Host.Outcome State Fault Refusal :=
  .next (acceptReserved s)

/-- Opcodes 0x04 to 0x07 (42_commands R135). -/
def execReserved04 (_op : Byte) (_ignored : LowBits) (s : State) : Host.Outcome State Fault Refusal :=
  .next (acceptReserved s)

/-- Opcodes 0x08 to 0x0F (42_commands R135). -/
def execReserved08 (_op : Byte) (_ignored : LowBits) (s : State) : Host.Outcome State Fault Refusal :=
  .next (acceptReserved s)

/-- Opcodes 0x10 to 0x1F (42_commands R135). -/
def execReserved10 (_op : Byte) (_ignored : LowBits) (s : State) : Host.Outcome State Fault Refusal :=
  .next (acceptReserved s)

/-- Opcodes 0x20 to 0x3F (42_commands R135). -/
def execReserved20 (_op : Byte) (_ignored : LowBits) (s : State) : Host.Outcome State Fault Refusal :=
  .next (acceptReserved s)

/-- Opcodes 0x40 to 0x7F (42_commands R135). -/
def execReserved40 (_op : Byte) (_ignored : LowBits) (s : State) : Host.Outcome State Fault Refusal :=
  .next (acceptReserved s)

/-- Opcodes 0x80 to 0xFF (42_commands R135). -/
def execReserved80 (_op : Byte) (_ignored : LowBits) (s : State) : Host.Outcome State Fault Refusal :=
  .next (acceptReserved s)

end Sys2Proof.Machine
end

