-- ==== Sys2Proof/Machine/Dispatch.lean ====
section
/-! DEFINITION. One arm per command: `case decode(in.cmd_word) of ...` of 42_commands R130. -/

namespace Sys2Proof.Machine

def exec (i : Instr) (s : State) : Host.Outcome State Fault Refusal :=
  match i with
  | .nop sbz => Sys2Proof.Machine.execNop sbz s
  | .send g r b => Sys2Proof.Machine.execSend g r b s
  | .hold sbz => Sys2Proof.Machine.execHold sbz s
  | .reserved03 op ignored => Sys2Proof.Machine.execReserved03 op ignored s
  | .reserved04 op ignored => Sys2Proof.Machine.execReserved04 op ignored s
  | .reserved08 op ignored => Sys2Proof.Machine.execReserved08 op ignored s
  | .reserved10 op ignored => Sys2Proof.Machine.execReserved10 op ignored s
  | .reserved20 op ignored => Sys2Proof.Machine.execReserved20 op ignored s
  | .reserved40 op ignored => Sys2Proof.Machine.execReserved40 op ignored s
  | .reserved80 op ignored => Sys2Proof.Machine.execReserved80 op ignored s

end Sys2Proof.Machine
end

