-- ==== Sys2Proof/Machine/Transmitter.lean ====
section
/-! DEFINITION. The Pulse Transmitter's phase steps (41_pulse R106 to R108). They read no input. Total on every value of
the registers (R116). -/

namespace Sys2Proof.Machine

/-- `step_HIGH` (41_pulse R106). -/
def stepHigh (s : State) : State :=
  if 1 < s.cnt then s.countDown else s.enter .low (tl s.cfg s.symbol)

/-- `step_LOW` (41_pulse R107): after symbol 23 the reset hold, otherwise the next symbol. -/
def stepLow (s : State) : State :=
  if 1 < s.cnt then s.countDown
  else if 23 ≤ s.bitidx.toNat then s.enter .rst s.cfg.treset
  else s.nextSymbol.enter .high (th s.cfg s.nextSymbol.symbol)

/-- `step_RST` (41_pulse R108). -/
def stepRst (s : State) : State :=
  if 1 < s.cnt then s.countDown else s.enter .idle 0

end Sys2Proof.Machine
end

