-- ==== Sys2Proof/Machine/Cycle.lean ====
section
/-! DEFINITION. One clock cycle: the next-state function of 41_pulse R104 and the acceptance logic of 42_commands R130. -/

namespace Sys2Proof.Machine

/-- `step_IDLE(s, in)` (42_commands R130, R131): the offered word is decoded and its command executed; with nothing
offered nothing changes. -/
def stepIdle (s : State) (i : PortIn) : Host.Outcome State Fault Refusal :=
  if i.cmdValid then exec (decode i.cmdWord) s else .next s

/-- `next(s, in)` (41_pulse R104): `rst` first (60_exceptions R174), then the phase. -/
def nextFor (s : State) (i : PortIn) : Host.Outcome State Fault Refusal :=
  if i.rst then .next s.toReset
  else
    match s.phase with
    | .idle => stepIdle s i
    | .high => .next (stepHigh s)
    | .low => .next (stepLow s)
    | .rst => .next (stepRst s)

/-- One cycle: `s(t+1) = next(s(t), in(t))`, and the schedule moves on by one cycle (00_scope R12; log entry 10). -/
def cycle (s : State) : Host.Outcome State Fault Refusal := nextFor s.nextInput s.input

end Sys2Proof.Machine
end

