-- ==== Sys2Proof/Machine/Step.lean ====
section
/-! DEFINITION. The step of the machine: one `clk` cycle (00_scope R12). -/

namespace Sys2Proof.Machine

/-- One `clk` cycle. -/
def step (s : State) : Host.Outcome State Fault Refusal := cycle s

/-- `s` with the command word `w` (bits above `nbits` 0) where the next step takes a command from: the block in `IDLE`
and the word offered on the port in this cycle. It stands for the host's offer to a ready block (log entry 5). -/
def State.withFetchWord (s : State) (nbits w : Nat) : State := s.offerWord (BitVec.ofNat 32 (w % 2 ^ nbits))

end Sys2Proof.Machine
end

