-- ==== Sys2Proof/Machine/Assembler.lean ====
section
/-! DEFINITION. The command notation of test programs (30_encoding R79), the pseudo-commands (R80) and the host
directives' text (R81). Text is a list of characters. -/

namespace Sys2Proof.Machine

/-- A command line of a program (30_encoding R79, R80); channel values as written, not yet checked. -/
inductive AsmCommand where
  /-- `NOP` -/
  | nop
  /-- `SEND g, r, b` -/
  | send (g r b : Nat)
  /-- `SEND #0xGGRRBB` -/
  | sendLiteral (v : Nat)
  /-- `HOLD` -/
  | hold
  /-- `.word v` -/
  | word (v : Nat)
  /-- `SEND.RGB r, g, b` -/
  | sendRgb (r g b : Nat)
  /-- `OFF` -/
  | off
  deriving DecidableEq, Repr

/-- The pseudo-commands' expansions (30_encoding R80). -/
def AsmCommand.expand : AsmCommand → AsmCommand
  | .nop => .nop
  | .send g r b => .send g r b
  | .sendLiteral v => .sendLiteral v
  | .hold => .hold
  | .word v => .word v
  | .sendRgb r g b => .send g r b
  | .off => .send 0 0 0

/-- The word of an expanded command; a channel above 255, a SEND literal above `0xFFFFFF` and a `.word` that is no 32-bit
value are refused (30_encoding R79). A pseudo-command has no word of its own. -/
def AsmCommand.coreWord : AsmCommand → Option Word
  | .nop => some 0x00000000
  | .send g r b =>
    if g ≤ 255 ∧ r ≤ 255 ∧ b ≤ 255 then
      some ((0x01 <<< 24) ||| (BitVec.ofNat 32 g <<< 16) ||| (BitVec.ofNat 32 r <<< 8) ||| BitVec.ofNat 32 b)
    else none
  | .sendLiteral v => if v ≤ 0xFFFFFF then some (0x01000000 ||| BitVec.ofNat 32 v) else none
  | .hold => some 0x02000000
  | .word v => if v < 2 ^ 32 then some (BitVec.ofNat 32 v) else none
  | .sendRgb _ _ _ => none
  | .off => none

/-- The word of a command line (30_encoding R79, R80). -/
def AsmCommand.assemble (a : AsmCommand) : Option Word := a.expand.coreWord

/-- One line of a program: a command or a host directive (30_encoding R79, R81). -/
inductive AsmLine where
  | command (c : AsmCommand)
  /-- `.reset` -/
  | reset
  /-- `.reset_at T` -/
  | resetAt (t : Nat)
  /-- `.idle n` -/
  | idle (n : Nat)
  deriving DecidableEq, Repr

/-! The text (30_encoding R79: one command per line, `;` starts a comment, mnemonics are case-insensitive; numerals are
decimal, `0x` hex or `0b` binary, 00_scope R11; log entry 16). -/

/-- What stands before the comment. -/
def dropComment (line : List Char) : List Char := line.takeWhile (· != ';')

/-- White space inside a line. -/
def isBlank (c : Char) : Bool := c == ' ' || c == '\t' || c == '\r'

/-- A word put in front of the tokens, if it is not empty. -/
def consToken (word : List Char) (tokens : List (List Char)) : List (List Char) :=
  if word.isEmpty then tokens else word :: tokens

/-- The tokens of a line: words in lower case, and commas. The first component is the word still being read. -/
def tokensFrom : List Char → List Char × List (List Char)
  | [] => ([], [])
  | c :: cs =>
    let (word, tokens) := tokensFrom cs
    if isBlank c then ([], consToken word tokens)
    else if c == ',' then ([], [','] :: consToken word tokens)
    else (c.toLower :: word, tokens)

/-- The tokens of a line without its comment. -/
def tokensOf (line : List Char) : List (List Char) :=
  let (word, tokens) := tokensFrom (dropComment line)
  consToken word tokens

/-- The value of a digit in a base of at most 16; letters in lower case. -/
def digitValue (base : Nat) (c : Char) : Option Nat :=
  let v := if '0' ≤ c ∧ c ≤ '9' then c.toNat - 48 else if 'a' ≤ c ∧ c ≤ 'f' then c.toNat - 87 else base
  if v < base then some v else none

/-- The value of a string of digits read after a number `acc`. -/
def digitsValue (base : Nat) : Nat → List Char → Option Nat
  | acc, [] => some acc
  | acc, c :: cs => (digitValue base c).bind fun d => digitsValue base (acc * base + d) cs

/-- A nonempty string of digits. -/
def readDigits (base : Nat) (ds : List Char) : Option Nat := if ds.isEmpty then none else digitsValue base 0 ds

/-- A hexadecimal numeral with its `0x`. -/
def readHex : List Char → Option Nat
  | '0' :: 'x' :: ds => readDigits 16 ds
  | _ => none

/-- A numeral (00_scope R11). -/
def readNumber : List Char → Option Nat
  | '0' :: 'x' :: ds => readDigits 16 ds
  | '0' :: 'b' :: ds => readDigits 2 ds
  | ds => readDigits 10 ds

/-- Three numerals separated by commas. -/
def readTriple : List (List Char) → Option (Nat × Nat × Nat)
  | [x, [','], y, [','], z] => do
    let a ← readNumber x
    let b ← readNumber y
    let c ← readNumber z
    pure (a, b, c)
  | _ => none

/-- The operand of SEND: `#0xGGRRBB` or `g, r, b` (30_encoding R79). -/
def readSend : List (List Char) → Option AsmCommand
  | [ '#' :: ds ] => (readHex ds).map .sendLiteral
  | ts => (readTriple ts).map fun (g, r, b) => .send g r b

/-- One numeral and nothing else. -/
def readOne : List (List Char) → Option Nat
  | [x] => readNumber x
  | _ => none

/-- A line from its tokens; `none` is a line the notation does not have. -/
def lineOf (keyword : List Char) (rest : List (List Char)) : Option AsmLine :=
  if keyword = "nop".toList then (if rest.isEmpty then some (.command .nop) else none)
  else if keyword = "hold".toList then (if rest.isEmpty then some (.command .hold) else none)
  else if keyword = "off".toList then (if rest.isEmpty then some (.command .off) else none)
  else if keyword = "send".toList then (readSend rest).map .command
  else if keyword = "send.rgb".toList then (readTriple rest).map fun (r, g, b) => .command (.sendRgb r g b)
  else if keyword = ".word".toList then (readOne rest).map fun v => .command (.word v)
  else if keyword = ".reset".toList then (if rest.isEmpty then some .reset else none)
  else if keyword = ".reset_at".toList then (readOne rest).map .resetAt
  else if keyword = ".idle".toList then (readOne rest).map .idle
  else none

/-- A line of text: nothing, one line of a program, or (outer `none`) an error. -/
def parseLine (line : List Char) : Option (Option AsmLine) :=
  match tokensOf line with
  | [] => some none
  | keyword :: rest => (lineOf keyword rest).map some

/-- The lines of a text. -/
def splitLines : List Char → List (List Char)
  | [] => [[]]
  | c :: cs =>
    if c == '\n' then [] :: splitLines cs
    else match splitLines cs with
      | [] => [[c]]
      | l :: ls => (c :: l) :: ls

/-- The program of a text, blank lines left out; one bad line refuses the text. -/
def parseText (text : List Char) : Option (List AsmLine) :=
  ((splitLines text).mapM parseLine).map fun ls => ls.filterMap id

end Sys2Proof.Machine
end

