-- ==== Sys2Proof/Machine/Trace.lean ====
section
/-! DEFINITION. Runs of the block over many cycles, and what is observed of them (43_line R150). -/

namespace Sys2Proof.Machine

/-- The outcome after `n` cycles. -/
def run : Nat → State → Host.Outcome State Fault Refusal
  | 0, s => .next s
  | n + 1, s =>
    match step s with
    | .next t => run n t
    | .fault r => .fault r
    | .refused r => .refused r

/-- The states of `n` consecutive cycles, the current one first. -/
def trace : Nat → State → List State
  | 0, _ => []
  | n + 1, s =>
    s :: (match step s with
      | .next t => trace n t
      | .fault _ => []
      | .refused _ => [])

/-- The line over `n` cycles, `o(t) = dout(t)` (43_line R150). -/
def lineTrace (n : Nat) (s : State) : List Bool := (trace n s).map State.dout

/-- The outputs over `n` cycles (43_line R150). -/
def outTrace (n : Nat) (s : State) : List PortOut := (trace n s).map State.out

/-- The log of accept edges over `n` cycles: the cycle (counted from 0) and the command (43_line R150). -/
def acceptLog (n : Nat) (s : State) : List (Nat × Instr) :=
  (trace n s).zipIdx.filterMap fun (u, t) => if u.accepts then some (t, decode u.input.cmdWord) else none

/-- The colours of the SENDs accepted in `n` cycles, in acceptance order (43_line R158). -/
def sentColors (n : Nat) (s : State) : List Color := (acceptLog n s).filterMap fun e => e.2.sendColor?

/-- No cycle of the next `n` has `rst = 1`. -/
abbrev State.NoResetFor (s : State) (n : Nat) : Prop := ∀ i ∈ s.inputs.take n, i.rst = false

/-- `rst = 1` in each of the next `n` cycles. -/
abbrev State.ResetHeldFor (s : State) (n : Nat) : Prop := ∀ i ∈ s.inputs.take n, i.rst = true

/-- After `n` cycles the machine is in a state with the property. -/
def AfterCycles (n : Nat) (s : State) (p : State → Prop) : Prop := ∃ t, run n s = .next t ∧ p t

end Sys2Proof.Machine
end

