-- ==== Sys2Proof/Machine/HostProgram.lean ====
section
/-! DEFINITION. A host that runs a test program (30_encoding R81, 70_reset R197): it offers its commands in order, each
held until accepted, idles and resets as told. It closes the loop around the block; the block itself admits any host
(00_scope R7). -/

namespace Sys2Proof.Machine

/-- What the host does next, in program order. -/
inductive HostItem where
  /-- Offer the word until it is accepted (70_reset R197). -/
  | offer (w : Word)
  /-- Offer nothing for `n` cycles (`.idle n`). -/
  | wait (n : Nat)
  deriving DecidableEq, Repr

/-- The host: the absolute cycle, the cycles in which it asserts `rst`, what it has still to do. -/
structure HostState where
  cycle : Nat
  resets : List Nat
  todo : List HostItem
  deriving DecidableEq, Repr

/-- An idle of no cycles is over at once. -/
def settle : List HostItem → List HostItem
  | .wait 0 :: rest => settle rest
  | items => items

/-- The host program of the lines after a possible first `.reset`; a `.reset` further down and a command the assembler
refuses refuse the program (30_encoding R79, R81). -/
def hostItems : List AsmLine → Option (List HostItem × List Nat)
  | [] => some ([], [])
  | .command c :: rest => do
    let w ← c.assemble
    let (items, resets) ← hostItems rest
    pure (.offer w :: items, resets)
  | .idle n :: rest => do
    let (items, resets) ← hostItems rest
    pure (.wait n :: items, resets)
  | .resetAt t :: rest => do
    let (items, resets) ← hostItems rest
    pure (items, t :: resets)
  | .reset :: _ => none

/-- The host of a program. With `.reset` first, `rst = 1` in cycle 0 and nothing is offered before cycle 1
(30_encoding R81). -/
def hostOf : List AsmLine → Option HostState
  | .reset :: rest => (hostItems rest).map fun (items, resets) => ⟨0, 0 :: resets, settle (.wait 1 :: items)⟩
  | lines => (hostItems lines).map fun (items, resets) => ⟨0, resets, settle items⟩

/-- The command offered in this cycle, if any. -/
def HostState.offered (h : HostState) : Option Word :=
  match h.todo with
  | .offer w :: _ => some w
  | _ => none

/-- The inputs the host drives in this cycle; a reset leaves the offered command offered (30_encoding R81). -/
def HostState.drive (h : HostState) : PortIn :=
  { rst := h.resets.contains h.cycle, cmdValid := h.offered.isSome, cmdWord := h.offered.getD 0 }

/-- The host after the edge: an accepted command is done, an idle cycle has passed (30_encoding R81). -/
def HostState.advance (h : HostState) (accepted : Bool) : HostState :=
  { h with
    cycle := h.cycle + 1
    todo := settle (match h.todo with
      | .offer w :: rest => if accepted then rest else .offer w :: rest
      | .wait n :: rest => .wait (n - 1) :: rest
      | [] => []) }

/-- A command still to be offered; an idle is none (30_encoding R81: the directives "are not commands"). -/
def HostItem.isOffer : HostItem → Bool
  | .offer _ => true
  | .wait _ => false

/-- "The host has no further command to offer" (43_line R159); idles and resets still to come are no commands. -/
def HostState.finished (h : HostState) : Bool := !h.todo.any HostItem.isOffer

/-- The block with the inputs of this cycle driven by the host. -/
def HostState.drives (h : HostState) (s : State) : State := { s with inputs := { given := [h.drive], after := .silent } }

/-- One cycle of host and block together. -/
def closedStep (h : HostState) (s : State) : HostState × Host.Outcome State Fault Refusal :=
  (h.advance (h.drives s).accepts, step (h.drives s))

/-- The states of the block from now to the end of the run, at most `fuel` of them: a finite run ends "at the first cycle
`t` at which `s(t).phase = IDLE` and the host has no further command to offer" (43_line R159). -/
def closedRun : Nat → HostState → State → List State
  | 0, _, _ => []
  | fuel + 1, h, s =>
    if h.finished && s.cmdReady then [s]
    else
      s :: (match closedStep h s with
        | (h', .next t) => closedRun fuel h' t
        | (_, .fault _) => []
        | (_, .refused _) => [])

/-- The run of a program from its cycle 0 in the block state `s`. A reset in cycle 0 comes before the run, which starts
with it (43_line R150), so that cycle is not the end. -/
def programRun (fuel : Nat) (h : HostState) (s : State) : List State :=
  if h.drive.rst then
    s :: (match closedStep h s with
      | (h', .next t) => closedRun fuel h' t
      | (_, .fault _) => []
      | (_, .refused _) => [])
  else closedRun fuel h s

end Sys2Proof.Machine
end

