-- ==== Sys2Proof/Machine/Observer.lean ====
section
/-! DEFINITION. The line observer (43_line_observation R151 to R156): functions of a line trace and a configuration. It
is no part of the block. -/

namespace Sys2Proof.Machine

/-- A maximal run of one level; `isOpen` marks the run the window may have cut (43_line R151). -/
structure Run where
  level : Bool
  length : Nat
  isOpen : Bool
  deriving DecidableEq, Repr

/-- One more cycle in front of a list of runs. -/
def consRun (b : Bool) : List Run → List Run
  | [] => [⟨b, 1, true⟩]
  | r :: rs => if r.level = b then { r with length := r.length + 1 } :: rs else ⟨b, 1, false⟩ :: r :: rs

/-- `runs(o)` (43_line R151). -/
def runs : List Bool → List Run
  | [] => []
  | b :: bs => consRun b (runs bs)

/-- A low run of at least `RESET_MIN_CYC` (43_line R152). -/
def Run.isResetGap (c : Config) (r : Run) : Bool := !r.level && decide (c.resetMin ≤ r.length)

/-- A high run and the low run that follows it; a high run at the end of the window is followed by a low of 0. -/
structure Pulse where
  high : Nat
  low : Nat
  deriving DecidableEq, Repr

/-- The high runs with the low run after each; a low run before the first high is left out. -/
def pulsesOf : List Run → List Pulse
  | [] => []
  | [r] => if r.level then [⟨r.length, 0⟩] else []
  | r :: q :: rest => if r.level then ⟨r.length, q.length⟩ :: pulsesOf rest else pulsesOf (q :: rest)

/-- A line frame (43_line R152): its high runs, each with the low run after it; `closed` when a reset gap follows. -/
structure LineFrame where
  pulses : List Pulse
  closed : Bool
  deriving DecidableEq, Repr

/-- A pulse put in front of the frames that follow it: a low of at least `gapMin` after it closes its frame. -/
def consPulse (gapMin : Nat) (p : Pulse) : List LineFrame → List LineFrame
  | [] => [⟨[p], decide (gapMin ≤ p.low)⟩]
  | f :: fs => if gapMin ≤ p.low then ⟨[p], true⟩ :: f :: fs else ⟨p :: f.pulses, f.closed⟩ :: fs

/-- Cutting a list of pulses at the reset gaps. -/
def splitFrames (gapMin : Nat) : List Pulse → List LineFrame
  | [] => []
  | p :: ps => consPulse gapMin p (splitFrames gapMin ps)

/-- The trace begins with a reset gap. -/
def startsWithGap (c : Config) : List Run → Bool
  | [] => false
  | r :: _ => r.isResetGap c

/-- The line frames of a trace (43_line R152). What stands before the first reset gap belongs to no frame, and a stretch
without a high run is no frame (log entry 14). -/
def lineFrames (c : Config) (o : List Bool) : List LineFrame :=
  if startsWithGap c (runs o) then splitFrames c.resetMin (pulsesOf (runs o))
  else (splitFrames c.resetMin (pulsesOf (runs o))).tail

/-- `class(h)`: long if longer than the midpoint of the two nominal high times (43_line R153). -/
def classify (c : Config) (h : Nat) : Sym := decide (c.t0h + c.t1h < 2 * h)

/-- What a line frame is received as (43_line R154). -/
inductive Received where
  /-- A colour, read G, R, B from the high end. -/
  | color (c : Color)
  /-- A frame of another number of symbols than 24. -/
  | malformed (n : Nat)
  deriving DecidableEq, Repr

/-- `decode(frame)` (43_line R154). -/
def LineFrame.received (c : Config) (f : LineFrame) : Received :=
  if f.pulses.length = frameBits then
    .color (BitVec.ofNat 24 (symbolsValue (f.pulses.map fun p => classify c p.high)))
  else .malformed f.pulses.length

/-- The checks of 43_line R155 on the pulses of a frame: every high exact, every low exact but the last, which also
carries the hold. -/
def pulsesExact (c : Config) : List Pulse → Bool
  | [] => true
  | [p] =>
    decide (p.high = th c (classify c p.high)) && decide (tl c (classify c p.high) + c.treset ≤ p.low)
  | p :: q :: rest =>
    decide (p.high = th c (classify c p.high)) && decide (p.low = tl c (classify c p.high)) && pulsesExact c (q :: rest)

/-- Exact conformance of a closed line frame (43_line R155). -/
def LineFrame.exact (c : Config) (f : LineFrame) : Bool :=
  f.closed && decide (f.pulses.length = frameBits) && pulsesExact c f.pulses

/-- The low time after an intended frame, `gap_i`: the last low of its pairs (43_line R156; 0 for an empty list of pairs,
log entry 15). -/
def gapAfter (frame : List Pulse) : Nat := (frame.getLast?.map Pulse.low).getD 0

/-- The reset-gap conformance checker on a train of intended frames: `true` when it is NOT flagged, that is when every
frame that has a following one is followed by at least `RESET_MIN_CYC` low cycles (43_line R156). -/
def gapConformant (c : Config) : List (List Pulse) → Bool
  | [] => true
  | [_] => true
  | f :: g :: rest => decide (c.resetMin ≤ gapAfter f) && gapConformant c (g :: rest)

/-- A pulse on the line. -/
def Pulse.line (p : Pulse) : List Bool := List.replicate p.high true ++ List.replicate p.low false

/-- A train of intended frames on the line (43_line R156). A line frame begins at a reset gap (R152), so the train stands
after one of `RESET_MIN_CYC` cycles (log entry 21). -/
def trainLine (c : Config) (train : List (List Pulse)) : List Bool :=
  List.replicate c.resetMin false ++ train.flatMap fun f => f.flatMap Pulse.line

/-- The line frames of a train: intended frames with a gap too short between them merge into one (43_line R156). -/
def trainFrames (c : Config) (train : List (List Pulse)) : List LineFrame := lineFrames c (trainLine c train)

/-- What a train is received as (43_line R156, R154). -/
def trainReceived (c : Config) (train : List (List Pulse)) : List Received :=
  (trainFrames c train).map fun f => f.received c

end Sys2Proof.Machine
end

