-- ==== Sys2Proof/Machine/Waveform.lean ====
section
/-! DEFINITION. The waveform a frame must have, written from 41_pulse R111 alone (no step function in it), and the
reachable-state invariant of 10_state R35. -/

namespace Sys2Proof.Machine

/-- What R111 says of one cycle: the phase and, in HIGH and LOW, the symbol index. -/
structure Slot where
  phase : Phase
  symbol? : Option (BitVec 5)
  deriving DecidableEq, Repr

/-- The slot a state is in. -/
def State.slot (s : State) : Slot :=
  match s.phase with
  | .idle => ⟨.idle, none⟩
  | .high => ⟨.high, some s.bitidx⟩
  | .low => ⟨.low, some s.bitidx⟩
  | .rst => ⟨.rst, none⟩

/-- The slots of symbol `k` of a colour: `TH(b_k)` cycles of HIGH, then `TL(b_k)` cycles of LOW (41_pulse R111). -/
def symbolSlots (c : Config) (color : Color) (k : BitVec 5) : List Slot :=
  List.replicate (th c (sym color k)) ⟨.high, some k⟩ ++ List.replicate (tl c (sym color k)) ⟨.low, some k⟩

/-- The slots of the 24 symbols of a frame, in order (41_pulse R111). -/
def frameSlots (c : Config) (color : Color) : List Slot :=
  (List.range frameBits).flatMap fun k => symbolSlots c color (BitVec.ofNat 5 k)

/-- Cycles `a` to `a + 1 + S + TRESET_CYC` of 41_pulse R111, for a SEND accepted at the edge ending cycle `a`. -/
def sendSlots (c : Config) (color : Color) : List Slot :=
  ⟨.idle, none⟩ :: (frameSlots c color ++ List.replicate c.treset ⟨.rst, none⟩ ++ [⟨.idle, none⟩])

/-- The pulses of a frame on the line: the high time and the low time of each symbol (41_pulse R111). -/
def framePulses (c : Config) (color : Color) : List (Nat × Nat) :=
  (enc color).map fun b => (th c b, tl c b)

/-- `INV(s)` (10_state R35). -/
def State.inv (s : State) : Bool :=
  decide (s.bitidx.toNat ≤ 23) &&
    (match s.phase with
    | .idle => decide (s.cnt = 0)
    | .high => decide (1 ≤ s.cnt) && decide (s.cnt ≤ th s.cfg (sym s.frame s.bitidx))
    | .low => decide (1 ≤ s.cnt) && decide (s.cnt ≤ tl s.cfg (sym s.frame s.bitidx))
    | .rst => decide (1 ≤ s.cnt) && decide (s.cnt ≤ s.cfg.treset))

/-- The counter holds a `CNT_W`-bit value (10_state R21; log entry 3). -/
def State.cntFits (s : State) : Bool := decide (s.cnt < 2 ^ s.cfg.cntW)

/-- Two states that agree on what the waveform may depend on, whatever the host drives and `err` holds (41_pulse R114,
10_state R26). -/
def State.SameWave (s t : State) : Prop :=
  s.phase = t.phase ∧ s.frame = t.frame ∧ s.bitidx = t.bitidx ∧ s.cnt = t.cnt ∧ s.build = t.build

/-- The opcode on the port in this cycle, as a number, `cmd_word[31:24]` (30_encoding R71); no use of the decoder. -/
def State.offeredOp (s : State) : Nat := s.input.cmdWord.toNat / 2 ^ 24

/-- The colour on the port in this cycle, `cmd_word[23:0]` (30_encoding R74); no use of the decoder. -/
def State.offeredColor (s : State) : Color := BitVec.ofNat 24 s.input.cmdWord.toNat

/-- The same cycle with another offer on the port, `rst` as before (42_commands R136). -/
def State.withCommand (s : State) (valid : Bool) (w : Word) : State :=
  { s with inputs := s.inputs.tail.cons { rst := s.input.rst, cmdValid := valid, cmdWord := w } }

/-- The line of a SEND from its accepting cycle to the first `IDLE` cycle after it (41_pulse R111). -/
def sendLine (c : Config) (color : Color) : List Bool :=
  false :: ((framePulses c color).flatMap (fun p => List.replicate p.1 true ++ List.replicate p.2 false) ++
    List.replicate (c.treset + 1) false)

end Sys2Proof.Machine
end

