-- ==== Sys2Proof/Safety.lean ====
section
/-! DEFINITION. What counts as a safe run of the block. -/

namespace Sys2Proof

/-- The run goes on for `n` cycles and ends with no malformed command seen: "every claim takes `err = 0` at the end as a
premise or a postcondition" (60_exceptions R172). -/
def SafeRun (n : Nat) (s : Machine.State) : Prop := ∃ t, Machine.run n s = .next t ∧ t.err = false

/-- Every frame on the line over `n` cycles is closed and exactly conformant (43_line R155, R158). A window must end where
the block is in `IDLE` (R159): one that ends inside a frame's hold shows less than the whole hold. -/
def ConformantLine (n : Nat) (s : Machine.State) : Prop :=
  ∀ f ∈ Machine.lineFrames s.cfg (Machine.lineTrace n s), f.closed = true ∧ f.exact s.cfg = true

/-- What the frames on the line over `n` cycles are received as, in order (43_line R154). -/
def receivedFrames (n : Nat) (s : Machine.State) : List Machine.Received :=
  (Machine.lineFrames s.cfg (Machine.lineTrace n s)).map (Machine.LineFrame.received s.cfg)

end Sys2Proof
end

