-- ==== Sys2Proof/Certificates/Slice0/Obligations.lean ====
section
/-! DEFINITION. The statements for the provers, from the numbered rules of spec/. `s.input` is `in(t)` (00_scope R12); a
next state's `inputs` are those from the next cycle on: holding the host's inputs in State is the model's form for the
free inputs of 00_scope R7 (log entry 4). A statement about every `inputs` holds whatever the host drives after the given
cycles. -/

open Sys2Proof Sys2Proof.Machine

/-! ## Encoding -/

/-- Words written out bit by bit from 30_encoding R71, R72 decode to the commands they stand for. -/
def Obligations.SampleWordsDecode : Prop :=
  decode 0b00000000_10101011_11001101_11101111 = .nop 0xABCDEF ∧
  decode 0b00000001_11111111_10000000_00000001 = .send 0xFF 0x80 0x01 ∧
  decode 0b00000010_00000000_00000000_00000001 = .hold 0x000001 ∧
  decode 0b00000011_00000000_00000000_00000000 = .reserved03 0x03 0 ∧
  decode 0b00000111_00000000_00000000_00000000 = .reserved04 0x07 0 ∧
  decode 0b00001000_00000000_00000000_00000000 = .reserved08 0x08 0 ∧
  decode 0b00011111_00000000_00000000_00000000 = .reserved10 0x1F 0 ∧
  decode 0b00100000_00000000_00000000_00000000 = .reserved20 0x20 0 ∧
  decode 0b01111111_00000000_00000000_00000000 = .reserved40 0x7F 0 ∧
  decode 0b11111111_00010010_00110100_01010110 = .reserved80 0xFF 0x123456

/-- No bit of an encoding is dropped. -/
def Obligations.DecodeOfEncode : Prop := ∀ i : Instr, i.wf = true → decode (encode i) = i

/-- Every 32-bit word is the encoding of exactly the well-formed command it decodes to. -/
def Obligations.EncodeOfDecode : Prop := ∀ w : Word, (decode w).wf = true ∧ encode (decode w) = w

/-- 30_encoding R73, case by case, and that the decoder's word matters only in the cycle of acceptance. -/
def Obligations.DecodeFollowsOpcode : Prop :=
  (∀ w : Word,
    (w.toNat / 2 ^ 24 = 0x00 → decode w = .nop (BitVec.ofNat 24 w.toNat)) ∧
    (w.toNat / 2 ^ 24 = 0x01 →
      decode w =
        .send (BitVec.ofNat 8 (w.toNat / 2 ^ 16)) (BitVec.ofNat 8 (w.toNat / 2 ^ 8)) (BitVec.ofNat 8 w.toNat) ∧
      (decode w).sendColor? = some (BitVec.ofNat 24 w.toNat)) ∧
    (w.toNat / 2 ^ 24 = 0x02 → decode w = .hold (BitVec.ofNat 24 w.toNat)) ∧
    (0x03 ≤ w.toNat / 2 ^ 24 → (decode w).reservedOp? = some (BitVec.ofNat 8 (w.toNat / 2 ^ 24)))) ∧
  (∀ (s : State) (w : Word), s.accepts = false → step (s.withCommand s.input.cmdValid w) = step s)

/-- A word belongs to one row of the opcode table, and the decoder gives that row's command. -/
def Obligations.OpcodeRowsPartition : Prop :=
  ∀ (w : Word) (k : Fin 10),
    (∃ row, opcodeRows[k.val]? = some row ∧ row.matchesWord w = true) ↔ k = (decode w).row

/-! ## Commands -/

/-- 42_commands R132. -/
def Obligations.NopChangesNothing : Prop :=
  (∀ (sbz : LowBits) (s : State), exec (.nop sbz) s = .next s) ∧
  (∀ s : State, s.accepts = true → s.offeredOp = 0x00 →
    step s = .next { s with inputs := s.inputs.tail } ∧
    ({ s with inputs := s.inputs.tail } : State).cmdReady = true)

/-- SEND's effect at the accepting edge; every other part of the state is as before. -/
def Obligations.SendStartsFirstSymbol : Prop :=
  (∀ (g r b : Byte) (s : State),
    exec (.send g r b) s = .next { s with
      frame := BitVec.ofNat 24 (g.toNat * 2 ^ 16 + r.toNat * 2 ^ 8 + b.toNat)
      bitidx := 0
      phase := .high
      cnt := if g.getLsbD 7 then s.cfg.t1h else s.cfg.t0h }) ∧
  (∀ s : State, s.accepts = true → s.offeredOp = 0x01 →
    step s = .next { s with
      frame := s.offeredColor
      bitidx := 0
      phase := .high
      cnt := if s.offeredColor.getLsbD 23 then s.cfg.t1h else s.cfg.t0h
      inputs := s.inputs.tail })

/-- HOLD's effect at the accepting edge; every other part of the state is as before, whatever `sbz` holds. -/
def Obligations.HoldStartsResetHold : Prop :=
  (∀ (sbz : LowBits) (s : State), exec (.hold sbz) s = .next { s with phase := .rst, cnt := s.cfg.treset }) ∧
  (∀ s : State, s.accepts = true → s.offeredOp = 0x02 →
    step s = .next { s with phase := .rst, cnt := s.cfg.treset, inputs := s.inputs.tail })

/-- 42_commands R135, for each of the reserved rows and on the port; `err` then stays set until a reset. -/
def Obligations.ReservedSetsErrOnly : Prop :=
  (∀ (op : Byte) (ignored : LowBits) (s : State),
    exec (.reserved03 op ignored) s = .next { s with err := true } ∧
    exec (.reserved04 op ignored) s = .next { s with err := true } ∧
    exec (.reserved08 op ignored) s = .next { s with err := true } ∧
    exec (.reserved10 op ignored) s = .next { s with err := true } ∧
    exec (.reserved20 op ignored) s = .next { s with err := true } ∧
    exec (.reserved40 op ignored) s = .next { s with err := true } ∧
    exec (.reserved80 op ignored) s = .next { s with err := true }) ∧
  (∀ s : State, s.accepts = true → 0x03 ≤ s.offeredOp →
    step s = .next { s with err := true, inputs := s.inputs.tail } ∧
    ({ s with err := true, inputs := s.inputs.tail } : State).cmdReady = true ∧
    (∀ n, s.NoResetFor (n + 1) → AfterCycles (n + 1) s fun t => t.err = true))

/-- What a command leaves unchanged, command by command. -/
def Obligations.CommandFrames : Prop :=
  ∀ (i : Instr) (s t : State), exec i s = .next t →
    t.build = s.build ∧ t.inputs = s.inputs ∧
    (i.sendColor? = none → t.frame = s.frame ∧ t.bitidx = s.bitidx) ∧
    (i.reservedOp? = none → t.err = s.err) ∧
    (∀ op, i.reservedOp? = some op → t.phase = s.phase ∧ t.cnt = s.cnt) ∧
    (∀ sbz, i = .nop sbz → t = s)

/-- 42_commands R130: when a command is accepted, and that accepting it executes the decoded command. -/
def Obligations.AcceptedCommandRuns : Prop :=
  ∀ s : State,
    (s.accepts = true ↔ s.input.cmdValid = true ∧ s.input.rst = false ∧ s.phase = .idle) ∧
    (s.cmdReady = true ↔ s.phase = .idle) ∧
    (s.accepts = true → step s = exec (decode s.input.cmdWord) { s with inputs := s.inputs.tail }) ∧
    (s.phase = .idle → s.input.rst = false → s.input.cmdValid = false →
      step s = .next { s with inputs := s.inputs.tail }) ∧
    (∀ i : Instr, i.wf = true → s.accepts = true → s.input.cmdWord = encode i →
      step s = exec i { s with inputs := s.inputs.tail })

/-- The step that takes a word from where `withFetchWord` puts it runs the command the decoder reads from it. The
placement itself is the model's own (log entry 5). -/
def Obligations.FetchedWordRuns : Prop :=
  ∀ (s : State) (w : Nat), w < 2 ^ 32 →
    ∃ i, decodeTableWord 32 w = some i ∧
      step (s.withFetchWord 32 w) = exec i { s with phase := .idle, cnt := 0, inputs := s.inputs.tail }

/-- 42_commands R131, 30_encoding R77: nothing offered, nothing changes, for as long as that lasts. -/
def Obligations.IdleWithoutCommand : Prop :=
  (∀ (n : Nat) (s : State), s.phase = .idle → (∀ i ∈ s.inputs.take n, i.rst = false ∧ i.cmdValid = false) →
    AfterCycles n s fun t => t = { s with inputs := s.inputs.drop n } ∧ t.dout = false) ∧
  (∀ (s : State) (w : Word), s.input.cmdValid = false → step (s.withCommand false w) = step s)

/-- 42_commands R136: an offer that is not accepted makes no difference to any later state. -/
def Obligations.UnacceptedOfferLeavesNoTrace : Prop :=
  ∀ (s : State) (valid : Bool) (w : Word), s.phase ≠ .idle ∨ s.input.rst = true →
    s.accepts = false ∧ step (s.withCommand valid w) = step s

/-! ## The phase machine -/

/-- 41_pulse R106, for every value of the registers. -/
def Obligations.HighSegmentStep : Prop :=
  ∀ s : State, s.phase = .high → s.input.rst = false →
    (1 < s.cnt → step s = .next { s with cnt := s.cnt - 1, inputs := s.inputs.tail }) ∧
    (s.cnt ≤ 1 → step s = .next { s with
      phase := .low
      cnt := tl s.cfg (sym s.frame s.bitidx)
      inputs := s.inputs.tail })

/-- 41_pulse R107, for every value of the registers. -/
def Obligations.LowSegmentStep : Prop :=
  ∀ s : State, s.phase = .low → s.input.rst = false →
    (1 < s.cnt → step s = .next { s with cnt := s.cnt - 1, inputs := s.inputs.tail }) ∧
    (s.cnt ≤ 1 → 23 ≤ s.bitidx.toNat →
      step s = .next { s with phase := .rst, cnt := s.cfg.treset, inputs := s.inputs.tail }) ∧
    (s.cnt ≤ 1 → s.bitidx.toNat < 23 →
      step s = .next { s with
        bitidx := BitVec.ofNat 5 (s.bitidx.toNat + 1)
        phase := .high
        cnt := th s.cfg (sym s.frame (BitVec.ofNat 5 (s.bitidx.toNat + 1)))
        inputs := s.inputs.tail })

/-- 41_pulse R108, for every value of the registers. -/
def Obligations.ResetHoldStep : Prop :=
  ∀ s : State, s.phase = .rst → s.input.rst = false →
    (1 < s.cnt → step s = .next { s with cnt := s.cnt - 1, inputs := s.inputs.tail }) ∧
    (s.cnt ≤ 1 → step s = .next { s with phase := .idle, cnt := 0, inputs := s.inputs.tail } ∧
      ({ s with phase := .idle, cnt := 0, inputs := s.inputs.tail } : State).cmdReady = true)

/-- 10_state R29, 41_pulse R105: the outputs are functions of the state alone. R29 gives the status word no width: that it
has these bits at every width it is read at, 0 and 1 among them, is DEDUCED (log entry 12). -/
def Obligations.OutputsFollowState : Prop :=
  ∀ s : State,
    s.out = { cmdReady := decide (s.phase = .idle), busy := decide (s.phase ≠ .idle), err := s.err,
              dout := decide (s.phase = .high) } ∧
    (∀ width i : Nat,
      (s.status width).getLsbD i = (decide (i < width) && ((i == 0 && s.busy) || (i == 1 && s.err))))

/-! ## Reset -/

/-- 70_reset R190, 10_state R36: from every state, at every time. -/
def Obligations.ResetEntersHold : Prop :=
  ∀ s : State, s.input.rst = true →
    s.accepts = false ∧
    AfterCycles 1 s fun t =>
      t = { phase := .rst, frame := 0, bitidx := 0, cnt := s.cfg.treset, err := false, build := s.build,
            inputs := s.inputs.tail } ∧
      t.out = { cmdReady := false, busy := true, err := false, dout := false } ∧
      (∀ k, k < s.cfg.treset → t.NoResetFor k →
        AfterCycles k t fun u => u.phase = .rst ∧ u.dout = false ∧ u.cmdReady = false)

/-- 70_reset R191. -/
def Obligations.ResetHeldStaysReset : Prop :=
  ∀ (n : Nat) (s : State), s.ResetHeldFor (n + 1) → ∀ k, k ≤ n →
    AfterCycles (k + 1) s fun t =>
      t = { phase := .rst, frame := 0, bitidx := 0, cnt := s.cfg.treset, err := false, build := s.build,
            inputs := s.inputs.drop (k + 1) } ∧
      t.dout = false

/-- 70_reset R193; the cycle of `s` is the last one with `rst = 1`. -/
def Obligations.FirstReadyAfterReset : Prop :=
  ∀ s : State, s.input.rst = true → s.nextInput.NoResetFor s.cfg.treset →
    (∀ k, 1 ≤ k → k ≤ s.cfg.treset → AfterCycles k s fun t => t.cmdReady = false ∧ t.dout = false) ∧
    (AfterCycles (s.cfg.treset + 1) s fun t => t.cmdReady = true ∧ t.dout = false ∧
      (t.accepts = true → t.offeredOp = 0x01 → AfterCycles 1 t fun u => u.dout = true)) ∧
    (∀ n, s.nextInput.NoResetFor (s.cfg.treset + n) →
      (∀ k, k < n → ∀ t, run (s.cfg.treset + 1 + k) s = .next t →
        ¬(t.accepts = true ∧ (t.offeredOp = 0x01 ∨ t.offeredOp = 0x02))) →
      AfterCycles (s.cfg.treset + 1 + n) s fun t => t.cmdReady = true)

/-! ## Invariants and whole-machine rules -/

/-- `INV` of 10_state R35 is kept by every step, from every state that has it. -/
def Obligations.StepKeepsInv : Prop := ∀ s t : State, s.inv = true → step s = .next t → t.inv = true

/-- `INV` holds after reset, whatever the build. -/
def Obligations.ResetStateHasInv : Prop :=
  State.reset.inv = true ∧ ∀ (b : Build) (inputs : Inputs), (State.resetFor b inputs).inv = true

/-- 10_state R35, under any inputs, over runs from `S_RESET`; `StepKeepsInv` is the step form. -/
def Obligations.ReachableStatesHaveInv : Prop :=
  ∀ (b : Build) (inputs : Inputs) (n : Nat) (t : State), run n (State.resetFor b inputs) = .next t →
    t.inv = true

/-- The counter never leaves its `CNT_W` bits, from any value it can hold (a natural number in the model, log entry 3). -/
def Obligations.CounterFitsItsWidth : Prop :=
  (∀ (b : Build) (inputs : Inputs),
    (State.resetFor b inputs).cntFits = true ∧ (State.powerUp b inputs).cntFits = true) ∧
  (∀ s t : State, s.cntFits = true → step s = .next t → t.cntFits = true)

/-- 60_exceptions R172. -/
def Obligations.ErrIsSticky : Prop :=
  (∀ (n : Nat) (s : State), s.err = true → s.NoResetFor n → AfterCycles n s fun t => t.err = true) ∧
  (∀ (i : Instr) (s t : State), s.err = true → exec i s = .next t → t.err = true) ∧
  (∀ s : State, s.input.rst = true → AfterCycles 1 s fun t => t.err = false)

/-- 10_state R26: what sets `err`, what clears it, and that the waveform does not depend on it. -/
def Obligations.ErrCauseAndNoEffectOnLine : Prop :=
  (∀ s t : State, step s = .next t → s.err = false →
    (t.err = true ↔ s.accepts = true ∧ 0x03 ≤ s.offeredOp)) ∧
  (∀ s t : State, step s = .next t → s.err = true → (t.err = false ↔ s.input.rst = true)) ∧
  (∀ (n : Nat) (s : State) (e : Bool), lineTrace n { s with err := e } = lineTrace n s)

/-- The colour register changes only at a reset and at the accepting edge of a SEND; the symbol index, beside these, only
at the end of a low segment. -/
def Obligations.ColorChangesOnlyAtSend : Prop :=
  ∀ s t : State, step s = .next t →
    (t.frame =
      if s.input.rst = true then 0
      else if s.accepts = true ∧ s.offeredOp = 0x01 then s.offeredColor
      else s.frame) ∧
    (s.input.rst = false → ¬(s.accepts = true ∧ s.offeredOp = 0x01) → ¬(s.phase = .low ∧ s.cnt ≤ 1) →
      t.bitidx = s.bitidx)

/-- No step changes the build, and each uses up one cycle of the inputs. That the two stand in State is the model's own
choice (log entries 1 and 4). -/
def Obligations.BuildIsFixed : Prop :=
  ∀ (n : Nat) (s t : State), run n s = .next t → t.build = s.build ∧ t.inputs = s.inputs.drop n

/-- The block runs on for ever from every state, under every input. -/
def Obligations.NeverStops : Prop := ∀ (n : Nat) (s : State), ∃ t, run n s = .next t

/-- While busy and without reset, what the host drives makes no difference (from 41_pulse R114, stated here of any two
states that agree on the registers but `err`, not of two accepting ones). -/
def Obligations.WaveformIndependentOfHost : Prop :=
  ∀ (n : Nat) (s s' : State), s.SameWave s' → s.NoResetFor n → s'.NoResetFor n →
    (∀ k, k < n → ∀ t, run k s = .next t → t.busy = true) →
    (∃ t t', run n s = .next t ∧ run n s' = .next t' ∧ t.SameWave t') ∧
    lineTrace (n + 1) s = lineTrace (n + 1) s'

/-! ## The waveform -/

/-- 41_pulse R110: a segment that begins in `t` lasts exactly its count, unless a reset cuts it. -/
def Obligations.SegmentLengths : Prop :=
  ∀ s t : State, step s = .next t →
    (s.phase ≠ .high → t.phase = .high → t.NoResetFor (th t.cfg (sym t.frame t.bitidx)) →
      (∀ k, k < th t.cfg (sym t.frame t.bitidx) →
        AfterCycles k t fun u => u.phase = .high ∧ u.bitidx = t.bitidx) ∧
      AfterCycles (th t.cfg (sym t.frame t.bitidx)) t fun u => u.phase = .low) ∧
    (s.phase ≠ .low → t.phase = .low → t.NoResetFor (tl t.cfg (sym t.frame t.bitidx)) →
      (∀ k, k < tl t.cfg (sym t.frame t.bitidx) →
        AfterCycles k t fun u => u.phase = .low ∧ u.bitidx = t.bitidx) ∧
      AfterCycles (tl t.cfg (sym t.frame t.bitidx)) t fun u => u.phase = .high ∨ u.phase = .rst) ∧
    (s.phase ≠ .rst ∨ s.input.rst = true → t.phase = .rst → t.NoResetFor t.cfg.treset →
      (∀ k, k < t.cfg.treset → AfterCycles k t fun u => u.phase = .rst) ∧
      AfterCycles t.cfg.treset t fun u => u.phase = .idle)

/-- 41_pulse R111: phase and symbol index of every cycle of a SEND, and its line. -/
def Obligations.SendWaveform : Prop :=
  ∀ s : State, s.accepts = true → s.offeredOp = 0x01 → s.NoResetFor (sendCycles s.cfg s.offeredColor + 1) →
    (trace (sendCycles s.cfg s.offeredColor + 2) s).map State.slot = sendSlots s.cfg s.offeredColor ∧
    lineTrace (sendCycles s.cfg s.offeredColor + 2) s = sendLine s.cfg s.offeredColor

/-- 41_pulse R112: the closed form of a frame's length, and the cycles a SEND keeps the block busy. -/
def Obligations.SendBusyTime : Prop :=
  (∀ (c : Config) (color : Color),
    (frameCycles c color : Int) =
      24 * ((c.t0h : Int) + c.t0l) +
        ((List.range 24).countP (fun k => color.getLsbD k) : Int) * (((c.t1h : Int) + c.t1l) - ((c.t0h : Int) + c.t0l)) ∧
    sendCycles c color = frameCycles c color + c.treset) ∧
  (∀ color : Color,
    frameCycles Config.ref20 color = 552 + 3 * (List.range 24).countP (fun k => color.getLsbD k) ∧
    sendCycles Config.ref20 color = 1552 + 3 * (List.range 24).countP (fun k => color.getLsbD k)) ∧
  (∀ s : State, s.accepts = true → s.offeredOp = 0x01 → s.NoResetFor (sendCycles s.cfg s.offeredColor + 1) →
    (trace (sendCycles s.cfg s.offeredColor + 2) s).countP State.busy = sendCycles s.cfg s.offeredColor)

/-- 42_commands R137; the cycle of `s` is the accepting one. -/
def Obligations.CompletionTimes : Prop :=
  ∀ s : State, s.accepts = true →
    ((s.offeredOp = 0x00 ∨ 0x03 ≤ s.offeredOp) → AfterCycles 1 s fun t => t.busy = false ∧ t.cmdReady = true) ∧
    (s.offeredOp = 0x02 → s.NoResetFor (s.cfg.treset + 1) →
      (∀ k, 1 ≤ k → k ≤ s.cfg.treset → AfterCycles k s fun t => t.busy = true) ∧
      AfterCycles (s.cfg.treset + 1) s fun t => t.cmdReady = true) ∧
    (s.offeredOp = 0x01 → s.NoResetFor (sendCycles s.cfg s.offeredColor + 1) →
      (∀ k, 1 ≤ k → k ≤ sendCycles s.cfg s.offeredColor → AfterCycles k s fun t => t.busy = true) ∧
      AfterCycles (sendCycles s.cfg s.offeredColor + 1) s fun t =>
        t.cmdReady = true ∧ t.accepts = (t.input.cmdValid && !t.input.rst))

/-- 20_memory R60: `cmd_ready` is the completion signal. -/
def Obligations.ReadyMeansComplete : Prop :=
  (∀ s : State, s.input.cmdValid = true → s.cmdReady = true → s.input.rst = false → s.accepts = true) ∧
  (∀ s t : State, s.accepts = true → step s = .next t → t.cmdReady = true →
    s.offeredOp = 0x00 ∨ 0x03 ≤ s.offeredOp) ∧
  (∀ (s t : State) (k : Nat), s.accepts = true → 1 ≤ k → s.NoResetFor k → run k s = .next t → t.cmdReady = true →
    (s.offeredOp = 0x01 → sendCycles s.cfg s.offeredColor < k) ∧
    (s.offeredOp = 0x02 → s.cfg.treset < k))

/-- From every value of the registers, `IDLE` within the bound of 41_pulse R116. -/
def Obligations.EveryStateReachesIdle : Prop :=
  ∀ s : State, s.NoResetFor (max s.cnt 1 + 24 * pairMax s.cfg + s.cfg.treset) →
    ∃ k, k ≤ max s.cnt 1 + 24 * pairMax s.cfg + s.cfg.treset ∧ AfterCycles k s fun t => t.phase = .idle

/-- 41_pulse R113: the low cycles after a frame's last high cycle (no reset meanwhile) and after a reset. -/
def Obligations.ResetGapByConstruction : Prop :=
  (∀ s : State, s.phase = .high → s.bitidx.toNat = 23 → s.cnt ≤ 1 →
    s.NoResetFor (tl s.cfg (sym s.frame s.bitidx) + s.cfg.treset + 1) →
    s.cfg.resetMin < tl s.cfg (sym s.frame s.bitidx) + s.cfg.treset + 1 ∧
    ∀ k, 1 ≤ k → k ≤ tl s.cfg (sym s.frame s.bitidx) + s.cfg.treset + 1 → AfterCycles k s fun t => t.dout = false) ∧
  (∀ s : State, s.input.rst = true → ∀ k, 1 ≤ k → k ≤ s.cfg.treset + 1 → AfterCycles k s fun t => t.dout = false)

/-- 41_pulse R115: the low runs between the highs of a SEND's frame. -/
def Obligations.NoFalseResetInFrame : Prop :=
  ∀ s : State, s.accepts = true → s.offeredOp = 0x01 → s.NoResetFor (sendCycles s.cfg s.offeredColor + 1) →
    ∀ r ∈ ((runs (lineTrace (sendCycles s.cfg s.offeredColor + 2) s)).drop 1).dropLast, r.level = false →
      (r.length = s.cfg.t0l ∨ r.length = s.cfg.t1l) ∧ r.length < s.cfg.resetMin

/-- 42_commands R138: the line of a SEND is the same whenever the same colour is sent. -/
def Obligations.SameColorSameLine : Prop :=
  ∀ s t : State, s.accepts = true → s.offeredOp = 0x01 → s.NoResetFor (sendCycles s.cfg s.offeredColor + 1) →
    t.accepts = true → t.offeredOp = 0x01 → t.NoResetFor (sendCycles s.cfg s.offeredColor + 1) →
    t.offeredColor = s.offeredColor → t.build = s.build →
    lineTrace (sendCycles s.cfg s.offeredColor + 2) t = lineTrace (sendCycles s.cfg s.offeredColor + 2) s

/-! ## The encoder and the observer -/

/-- 40_bit_encoder R92: the table of symbol indices and channel bits. -/
def Obligations.EncoderTable : Prop :=
  ∀ g r b : Byte,
    (∀ k, k < 8 → (enc (colorOf g r b))[k]? = some (g.getLsbD (7 - k))) ∧
    (∀ k, k < 8 → (enc (colorOf g r b))[8 + k]? = some (r.getLsbD (7 - k))) ∧
    (∀ k, k < 8 → (enc (colorOf g r b))[16 + k]? = some (b.getLsbD (7 - k))) ∧
    (enc (colorOf g r b)).length = 24 ∧
    (∀ k : BitVec 5, 23 < k.toNat → sym (colorOf g r b) k = false)

/-- 40_bit_encoder R94. -/
def Obligations.EncoderInverse : Prop :=
  (∀ c : Color,
    ((List.range 24).map fun k => (sym c (BitVec.ofNat 5 k)).toNat * 2 ^ (23 - k)).sum = c.toNat ∧
    symbolsValue (enc c) = c.toNat) ∧
  (∀ c d : Color, enc c = enc d → c = d)

/-- 43_line R153, on every admitted configuration. -/
def Obligations.ClassifierSeparates : Prop :=
  (∀ (c : Config) (h : Nat), classify c h = true ↔ c.t0h + c.t1h < 2 * h) ∧
  (∀ b : Build, classify b.cfg b.cfg.t0h = false ∧ classify b.cfg b.cfg.t1h = true)

/-- 43_line R157: the window is the reset gap that stands before the SEND, and the SEND up to its return to `IDLE`. A line
frame is the observer's, with its conventions at the edges of a window and for empty stretches (log entry 14). -/
def Obligations.RoundTrip : Prop :=
  ∀ (b : Build) (inputs : Inputs) (m : Nat) (s : State), run m (State.resetFor b inputs) = .next s →
    s.accepts = true → s.offeredOp = 0x01 → s.NoResetFor (sendCycles b.cfg s.offeredColor + 1) →
    List.replicate b.cfg.resetMin false <:+ lineTrace m (State.resetFor b inputs) ∧
    ∃ f, lineFrames b.cfg
        (List.replicate b.cfg.resetMin false ++ lineTrace (sendCycles b.cfg s.offeredColor + 2) s) = [f] ∧
      f.closed = true ∧ f.exact b.cfg = true ∧ f.received b.cfg = .color s.offeredColor

/-- From 43_line R158: from a reset, under every input without a further reset. R158 speaks of every observation; that the
window ends where the block is in `IDLE` is the model's restriction, DEDUCED from R159 and R155 (log entry 20). -/
def Obligations.BlockConformance : Prop :=
  ∀ (b : Build) (inputs : Inputs) (n : Nat), (∀ i ∈ inputs.take n, i.rst = false) →
    (AfterCycles n (State.resetFor b inputs) fun t => t.phase = .idle) →
    ConformantLine n (State.resetFor b inputs) ∧
    receivedFrames n (State.resetFor b inputs) = (sentColors n (State.resetFor b inputs)).map Received.color ∧
    gapConformant b.cfg ((lineFrames b.cfg (lineTrace n (State.resetFor b inputs))).map LineFrame.pulses) = true

/-- A train of two intended frames (from 43_line R156): the short gap that the checker flags merges them into one line
frame, malformed when it has more than 24 symbols; a gap of `RESET_MIN_CYC` keeps them apart. That the train stands on
the line after a reset gap is DEDUCED (log entry 21). -/
def Obligations.ShortGapMergesFrames : Prop :=
  ∀ (b : Build) (f g : List Pulse), f ≠ [] → g ≠ [] → (∀ p ∈ f ++ g, 1 ≤ p.high ∧ 1 ≤ p.low) →
    (∀ p ∈ f.dropLast ++ g.dropLast, p.low < b.cfg.resetMin) →
    (gapAfter f < b.cfg.resetMin →
      gapConformant b.cfg [f, g] = false ∧
      trainFrames b.cfg [f, g] = [⟨f ++ g, decide (b.cfg.resetMin ≤ gapAfter g)⟩] ∧
      (24 < f.length + g.length → trainReceived b.cfg [f, g] = [.malformed (f.length + g.length)])) ∧
    (b.cfg.resetMin ≤ gapAfter f →
      gapConformant b.cfg [f, g] = true ∧
      trainFrames b.cfg [f, g] = [⟨f, true⟩, ⟨g, decide (b.cfg.resetMin ≤ gapAfter g)⟩])

/-! ## Configuration -/

/-- The formulas of 41_pulse R101, and the default of `TRESET_NS` (00_scope R8). That a `TRESET_NS` below the minimum is
refused is DEDUCED from R8 (log entry 13); R101 names no refusal. -/
def Obligations.DerivedCounts : Prop :=
  ∀ f tresetNs w : Nat,
    Config.derived f w tresetNs =
      { fClkHz := f
        t0h := max 1 ((2 * (350 * f) + 10 ^ 9) / (2 * 10 ^ 9))
        t0l := max 1 ((2 * (800 * f) + 10 ^ 9) / (2 * 10 ^ 9))
        t1h := max 1 ((2 * (700 * f) + 10 ^ 9) / (2 * 10 ^ 9))
        t1l := max 1 ((2 * (600 * f) + 10 ^ 9) / (2 * 10 ^ 9))
        treset := (tresetNs * f + 10 ^ 9 - 1) / 10 ^ 9
        cntW := w } ∧
    (Config.derived f w tresetNs).resetMin = (50000 * f + 10 ^ 9 - 1) / 10 ^ 9 ∧
    Config.derived f w = Config.derived f w 50000 ∧ Config.derive? f w = Config.derive? f w 50000 ∧
    (tresetNs < 50000 → Config.derive? f w tresetNs = none) ∧
    (50000 ≤ tresetNs → Config.derive? f w tresetNs = (Config.derived f w tresetNs).build?)

/-- 41_pulse R117, with `P = 10^9 / F_CLK_HZ` multiplied out. -/
def Obligations.DerivedCountAccuracy : Prop :=
  ∀ f tresetNs w : Nat, 1 ≤ f →
    (∀ p ∈ [((Config.derived f w tresetNs).t0h, 350), ((Config.derived f w tresetNs).t0l, 800),
            ((Config.derived f w tresetNs).t1h, 700), ((Config.derived f w tresetNs).t1l, 600)],
      (10 ^ 9 ≤ 2 * (p.2 * f) →
        2 * (p.1 * 10 ^ 9) ≤ 2 * (p.2 * f) + 10 ^ 9 ∧ 2 * (p.2 * f) ≤ 2 * (p.1 * 10 ^ 9) + 10 ^ 9) ∧
      (2 * (p.2 * f) < 10 ^ 9 → p.1 = 1)) ∧
    tresetNs * f ≤ (Config.derived f w tresetNs).treset * 10 ^ 9 ∧
    (Config.derived f w tresetNs).treset * 10 ^ 9 < tresetNs * f + 10 ^ 9

/-- 41_pulse R102: W1 to W5, and that no state has a configuration that fails one. -/
def Obligations.AdmittedConfigurations : Prop :=
  (∀ c : Config, c.build?.isSome = true ↔
    (1 ≤ c.t0h ∧ 1 ≤ c.t0l ∧ 1 ≤ c.t1h ∧ 1 ≤ c.t1l ∧ 1 ≤ c.treset) ∧
    c.t0h < c.t1h ∧
    (50000 * c.fClkHz + 10 ^ 9 - 1) / 10 ^ 9 ≤ c.treset ∧
    max c.t0l c.t1l < (50000 * c.fClkHz + 10 ^ 9 - 1) / 10 ^ 9 ∧
    max c.t0h (max c.t0l (max c.t1h (max c.t1l c.treset))) < 2 ^ c.cntW) ∧
  (∀ (c : Config) (b : Build), c.build? = some b → b.cfg = c) ∧
  (∀ s : State, s.cfg.build? = some s.build)

/-! ## Host notation -/

/-- The words of the command notation, what the assembler refuses, and the pseudo-commands. -/
def Obligations.AssembledWords : Prop :=
  (∀ g r b : Nat, g ≤ 255 → r ≤ 255 → b ≤ 255 →
    ∃ w, (AsmCommand.send g r b).assemble = some w ∧ w.toNat = 2 ^ 24 + g * 2 ^ 16 + r * 2 ^ 8 + b ∧
      decode w = .send (BitVec.ofNat 8 g) (BitVec.ofNat 8 r) (BitVec.ofNat 8 b)) ∧
  (∀ g r b : Nat, 255 < g ∨ 255 < r ∨ 255 < b → (AsmCommand.send g r b).assemble = none) ∧
  (∀ v : Nat, v ≤ 0xFFFFFF → ∃ w, (AsmCommand.sendLiteral v).assemble = some w ∧ w.toNat = 2 ^ 24 + v) ∧
  (∀ v : Nat, 0xFFFFFF < v → (AsmCommand.sendLiteral v).assemble = none) ∧
  (∀ w : Word, (AsmCommand.word w.toNat).assemble = some w) ∧
  (∀ r g b : Nat, (AsmCommand.sendRgb r g b).assemble = (AsmCommand.send g r b).assemble) ∧
  AsmCommand.off.assemble = (AsmCommand.send 0 0 0).assemble ∧
  AsmCommand.nop.assemble = some 0x00000000 ∧ AsmCommand.hold.assemble = some 0x02000000

/-- A host that runs a program holds its offer, unchanged, until the block accepts it. -/
def Obligations.HostHoldsOffer : Prop :=
  ∀ (h : HostState) (w : Word), h.offered = some w →
    h.drive.cmdValid = true ∧ h.drive.cmdWord = w ∧
    (∀ s : State, (h.drives s).accepts = false →
      (closedStep h s).1.offered = some w ∧ (closedStep h s).1.drive.cmdWord = w) ∧
    (∀ s : State, (h.drives s).accepts = true → (closedStep h s).1.todo = settle (h.todo.drop 1))
end

