-- ==== Sys2Proof/Laws/Encoder.lean ====
section
/-! SUPPORT. The small lemmas of the encoder and of the durations. -/

namespace Sys2Proof.Machine

theorem sym_of_le (c : Color) (k : BitVec 5) (h : k.toNat ≤ 23) : sym c k = c.getLsbD (23 - k.toNat) := by
  simp [sym, h]

theorem sym_of_gt (c : Color) (k : BitVec 5) (h : 23 < k.toNat) : sym c k = false := by
  simp [sym, Nat.not_le.mpr h]

@[simp] theorem enc_length (c : Color) : (enc c).length = 24 := by simp [enc, frameBits]

theorem th_true (c : Config) : th c true = c.t1h := rfl
theorem th_false (c : Config) : th c false = c.t0h := rfl
theorem tl_true (c : Config) : tl c true = c.t1l := rfl
theorem tl_false (c : Config) : tl c false = c.t0l := rfl

@[simp] theorem symbolsValue_nil : symbolsValue [] = 0 := rfl
@[simp] theorem symbolsValue_cons (b : Sym) (bs : List Sym) :
    symbolsValue (b :: bs) = b.toNat * 2 ^ bs.length + symbolsValue bs := rfl

/-- A string of symbols is a number below `2^length`. -/
theorem symbolsValue_lt (bs : List Sym) : symbolsValue bs < 2 ^ bs.length := by
  induction bs with
  | nil => simp
  | cons b bs ih =>
    have : b.toNat * 2 ^ bs.length ≤ 2 ^ bs.length := by cases b <;> simp
    simp only [symbolsValue_cons, List.length_cons, Nat.pow_succ]
    omega

/-- The channels of an assembled colour (20_memory R50). -/
@[simp] theorem greenOf_colorOf (g r b : Byte) : greenOf (colorOf g r b) = g := by
  apply BitVec.eq_of_getLsbD_eq
  intro i hi
  simp only [greenOf, colorOf, BitVec.getLsbD_extractLsb', BitVec.getLsbD_append]
  simp [hi, show ¬16 + i < 8 by omega, show 16 + i - 8 - 8 = i by omega, show ¬16 + i - 8 < 8 by omega]

@[simp] theorem redOf_colorOf (g r b : Byte) : redOf (colorOf g r b) = r := by
  apply BitVec.eq_of_getLsbD_eq
  intro i hi
  simp only [redOf, colorOf, BitVec.getLsbD_extractLsb', BitVec.getLsbD_append]
  simp [hi, show ¬8 + i < 8 by omega, show 8 + i - 8 = i by omega]

@[simp] theorem blueOf_colorOf (g r b : Byte) : blueOf (colorOf g r b) = b := by
  apply BitVec.eq_of_getLsbD_eq
  intro i hi
  simp only [blueOf, colorOf, BitVec.getLsbD_extractLsb', BitVec.getLsbD_append]
  simp [hi]

end Sys2Proof.Machine
end

