-- ==== Sys2Proof/Laws/Calibration.lean ====
section
/-! SUPPORT. What an admitted configuration gives: the checks W1 to W5 of 41_pulse R102, one lemma each. -/

namespace Sys2Proof

theorem Config.admitted_iff (c : Config) :
    c.admitted = true ↔
      Machine.checkW1 c.t0h c.t0l c.t1h c.t1l c.treset = true ∧ Machine.checkW2 c.t0h c.t1h = true ∧
      Machine.checkW3 c.treset c.resetMin = true ∧ Machine.checkW4 c.t0l c.t1l c.resetMin = true ∧
      Machine.checkW5 c.cntW c.t0h c.t0l c.t1h c.t1l c.treset = true := by
  simp [Config.admitted, Machine.admittedCounts, and_assoc]

theorem Build.w1 (b : Build) :
    1 ≤ b.cfg.t0h ∧ 1 ≤ b.cfg.t0l ∧ 1 ≤ b.cfg.t1h ∧ 1 ≤ b.cfg.t1l ∧ 1 ≤ b.cfg.treset := by
  have h := (b.cfg.admitted_iff.mp b.ok).1
  simpa [Machine.checkW1, and_assoc] using h

theorem Build.w2 (b : Build) : b.cfg.t0h < b.cfg.t1h := by
  simpa [Machine.checkW2] using (b.cfg.admitted_iff.mp b.ok).2.1

theorem Build.w3 (b : Build) : b.cfg.resetMin ≤ b.cfg.treset := by
  simpa [Machine.checkW3] using (b.cfg.admitted_iff.mp b.ok).2.2.1

theorem Build.w4 (b : Build) : b.cfg.t0l < b.cfg.resetMin ∧ b.cfg.t1l < b.cfg.resetMin := by
  simpa [Machine.checkW4, Nat.max_lt] using (b.cfg.admitted_iff.mp b.ok).2.2.2.1

theorem Build.w5 (b : Build) : b.cfg.maxCount < 2 ^ b.cfg.cntW := by
  simpa [Machine.checkW5, Config.maxCount] using (b.cfg.admitted_iff.mp b.ok).2.2.2.2

theorem Build.th_pos (b : Build) (x : Sym) : 1 ≤ Machine.th b.cfg x := by
  have := b.w1
  cases x <;> simp [Machine.th] <;> omega

theorem Build.tl_pos (b : Build) (x : Sym) : 1 ≤ Machine.tl b.cfg x := by
  have := b.w1
  cases x <;> simp [Machine.tl] <;> omega

theorem Build.tl_lt_resetMin (b : Build) (x : Sym) : Machine.tl b.cfg x < b.cfg.resetMin := by
  have := b.w4
  cases x <;> simp [Machine.tl] <;> omega

theorem Config.le_maxCount (c : Config) :
    c.t0h ≤ c.maxCount ∧ c.t0l ≤ c.maxCount ∧ c.t1h ≤ c.maxCount ∧ c.t1l ≤ c.maxCount ∧ c.treset ≤ c.maxCount := by
  simp only [Config.maxCount, Machine.maxCount]
  omega

theorem Config.th_le_maxCount (c : Config) (x : Sym) : Machine.th c x ≤ c.maxCount := by
  have := c.le_maxCount
  cases x <;> simp [Machine.th] <;> omega

theorem Config.tl_le_maxCount (c : Config) (x : Sym) : Machine.tl c x ≤ c.maxCount := by
  have := c.le_maxCount
  cases x <;> simp [Machine.tl] <;> omega

/-- `CNT_W` of `bitLength` bits is wide enough and the least such width (00_scope R8). -/
theorem Machine.lt_two_pow_iff_bitLength_le (n w : Nat) : n < 2 ^ w ↔ Machine.bitLength n ≤ w := by
  unfold Machine.bitLength
  split
  · simp [*]
  · rw [Nat.add_one_le_iff, Nat.log2_lt ‹_›]

end Sys2Proof
end

