-- ==== Sys2Proof/Laws/Decode.lean ====
section
/-! SUPPORT. The fields of a command word as numbers and as parts of an assembled word. -/

namespace Sys2Proof

theorem opField_toNat (w : Word) : (opField w).toNat = w.toNat / 2 ^ 24 := by
  have := w.isLt
  simp only [opField, BitVec.extractLsb'_toNat, Nat.shiftRight_eq_div_pow]
  omega

theorem lowField_toNat (w : Word) : (lowField w).toNat = w.toNat % 2 ^ 24 := by
  simp [lowField]

@[simp] theorem opField_cmdWord (op : Byte) (low : LowBits) : opField (cmdWord op low) = op := by
  apply BitVec.eq_of_toNat_eq
  have := low.isLt
  rw [opField_toNat, cmdWord, BitVec.toNat_append, Nat.shiftLeft_eq, Nat.mul_comm, ← Nat.two_pow_add_eq_or_of_lt low.isLt]
  omega

@[simp] theorem lowField_cmdWord (op : Byte) (low : LowBits) : lowField (cmdWord op low) = low := by
  apply BitVec.eq_of_toNat_eq
  have := low.isLt
  rw [lowField_toNat, cmdWord, BitVec.toNat_append, Nat.shiftLeft_eq, Nat.mul_comm, ← Nat.two_pow_add_eq_or_of_lt low.isLt]
  omega

/-- Masking an assembled word masks its two parts. -/
theorem cmdWord_and (op a : Byte) (low b : LowBits) : cmdWord op low &&& cmdWord a b = cmdWord (op &&& a) (low &&& b) :=
  BitVec.and_append

end Sys2Proof
end

