-- ==== Sys2Proof/Laws/Observer.lean ====
section
/-! SUPPORT. The small lemmas of the line observer. -/

namespace Sys2Proof.Machine

@[simp] theorem runs_nil : runs [] = [] := rfl
@[simp] theorem runs_cons (b : Bool) (bs : List Bool) : runs (b :: bs) = consRun b (runs bs) := rfl

/-- No run is empty. -/
theorem runs_length_pos (o : List Bool) : ∀ r ∈ runs o, 1 ≤ r.length := by
  induction o with
  | nil => simp
  | cons b bs ih =>
    rw [runs_cons]
    cases h : runs bs with
    | nil => simp [consRun]
    | cons r rs =>
      rw [h] at ih
      simp only [consRun]
      split <;> simp_all

/-- The runs of a trace are as long as the trace. -/
theorem runs_length_sum (o : List Bool) : ((runs o).map Run.length).sum = o.length := by
  induction o with
  | nil => simp
  | cons b bs ih =>
    rw [runs_cons]
    cases h : runs bs with
    | nil =>
      rw [h] at ih
      have hb : bs.length = 0 := ih.symm
      simp [consRun, hb]
    | cons r rs =>
      rw [h] at ih
      simp only [consRun]
      split <;> simp_all <;> omega

theorem consPulse_nil (g : Nat) (p : Pulse) : consPulse g p [] = [⟨[p], decide (g ≤ p.low)⟩] := rfl

theorem consPulse_of_gap (g : Nat) (p : Pulse) (f : LineFrame) (fs : List LineFrame) (h : g ≤ p.low) :
    consPulse g p (f :: fs) = ⟨[p], true⟩ :: f :: fs := by simp [consPulse, h]

theorem consPulse_of_no_gap (g : Nat) (p : Pulse) (f : LineFrame) (fs : List LineFrame) (h : p.low < g) :
    consPulse g p (f :: fs) = ⟨p :: f.pulses, f.closed⟩ :: fs := by simp [consPulse, Nat.not_le.mpr h]

theorem Run.isResetGap_iff (c : Config) (r : Run) : r.isResetGap c = true ↔ r.level = false ∧ c.resetMin ≤ r.length := by
  simp [Run.isResetGap]

end Sys2Proof.Machine
end

