-- ==== Sys2Proof/Laws/State.lean ====
section
/-! SUPPORT. One lemma per field and update of State, so that no proof unfolds a record update. -/

namespace Sys2Proof.Machine

@[simp] theorem State.setErr_phase (s : State) : s.setErr.phase = s.phase := rfl
@[simp] theorem State.setErr_frame (s : State) : s.setErr.frame = s.frame := rfl
@[simp] theorem State.setErr_bitidx (s : State) : s.setErr.bitidx = s.bitidx := rfl
@[simp] theorem State.setErr_cnt (s : State) : s.setErr.cnt = s.cnt := rfl
@[simp] theorem State.setErr_err (s : State) : s.setErr.err = true := rfl
@[simp] theorem State.setErr_build (s : State) : s.setErr.build = s.build := rfl
@[simp] theorem State.setErr_inputs (s : State) : s.setErr.inputs = s.inputs := rfl
@[simp] theorem State.setErr_cfg (s : State) : s.setErr.cfg = s.cfg := rfl

@[simp] theorem State.nextInput_phase (s : State) : s.nextInput.phase = s.phase := rfl
@[simp] theorem State.nextInput_frame (s : State) : s.nextInput.frame = s.frame := rfl
@[simp] theorem State.nextInput_bitidx (s : State) : s.nextInput.bitidx = s.bitidx := rfl
@[simp] theorem State.nextInput_cnt (s : State) : s.nextInput.cnt = s.cnt := rfl
@[simp] theorem State.nextInput_err (s : State) : s.nextInput.err = s.err := rfl
@[simp] theorem State.nextInput_build (s : State) : s.nextInput.build = s.build := rfl
@[simp] theorem State.nextInput_inputs (s : State) : s.nextInput.inputs = s.inputs.tail := rfl
@[simp] theorem State.nextInput_cfg (s : State) : s.nextInput.cfg = s.cfg := rfl

@[simp] theorem State.enter_phase (s : State) (p : Phase) (n : Nat) : (s.enter p n).phase = p := rfl
@[simp] theorem State.enter_frame (s : State) (p : Phase) (n : Nat) : (s.enter p n).frame = s.frame := rfl
@[simp] theorem State.enter_bitidx (s : State) (p : Phase) (n : Nat) : (s.enter p n).bitidx = s.bitidx := rfl
@[simp] theorem State.enter_cnt (s : State) (p : Phase) (n : Nat) : (s.enter p n).cnt = n := rfl
@[simp] theorem State.enter_err (s : State) (p : Phase) (n : Nat) : (s.enter p n).err = s.err := rfl
@[simp] theorem State.enter_build (s : State) (p : Phase) (n : Nat) : (s.enter p n).build = s.build := rfl
@[simp] theorem State.enter_inputs (s : State) (p : Phase) (n : Nat) : (s.enter p n).inputs = s.inputs := rfl
@[simp] theorem State.enter_cfg (s : State) (p : Phase) (n : Nat) : (s.enter p n).cfg = s.cfg := rfl

@[simp] theorem State.countDown_phase (s : State) : s.countDown.phase = s.phase := rfl
@[simp] theorem State.countDown_frame (s : State) : s.countDown.frame = s.frame := rfl
@[simp] theorem State.countDown_bitidx (s : State) : s.countDown.bitidx = s.bitidx := rfl
@[simp] theorem State.countDown_cnt (s : State) : s.countDown.cnt = s.cnt - 1 := rfl
@[simp] theorem State.countDown_err (s : State) : s.countDown.err = s.err := rfl
@[simp] theorem State.countDown_build (s : State) : s.countDown.build = s.build := rfl
@[simp] theorem State.countDown_inputs (s : State) : s.countDown.inputs = s.inputs := rfl
@[simp] theorem State.countDown_cfg (s : State) : s.countDown.cfg = s.cfg := rfl

@[simp] theorem State.loadColor_phase (s : State) (c : Color) : (s.loadColor c).phase = s.phase := rfl
@[simp] theorem State.loadColor_frame (s : State) (c : Color) : (s.loadColor c).frame = c := rfl
@[simp] theorem State.loadColor_bitidx (s : State) (c : Color) : (s.loadColor c).bitidx = 0 := rfl
@[simp] theorem State.loadColor_cnt (s : State) (c : Color) : (s.loadColor c).cnt = s.cnt := rfl
@[simp] theorem State.loadColor_err (s : State) (c : Color) : (s.loadColor c).err = s.err := rfl
@[simp] theorem State.loadColor_build (s : State) (c : Color) : (s.loadColor c).build = s.build := rfl
@[simp] theorem State.loadColor_inputs (s : State) (c : Color) : (s.loadColor c).inputs = s.inputs := rfl
@[simp] theorem State.loadColor_cfg (s : State) (c : Color) : (s.loadColor c).cfg = s.cfg := rfl

@[simp] theorem State.nextSymbol_phase (s : State) : s.nextSymbol.phase = s.phase := rfl
@[simp] theorem State.nextSymbol_frame (s : State) : s.nextSymbol.frame = s.frame := rfl
@[simp] theorem State.nextSymbol_bitidx (s : State) : s.nextSymbol.bitidx = s.bitidx + 1 := rfl
@[simp] theorem State.nextSymbol_cnt (s : State) : s.nextSymbol.cnt = s.cnt := rfl
@[simp] theorem State.nextSymbol_err (s : State) : s.nextSymbol.err = s.err := rfl
@[simp] theorem State.nextSymbol_build (s : State) : s.nextSymbol.build = s.build := rfl
@[simp] theorem State.nextSymbol_inputs (s : State) : s.nextSymbol.inputs = s.inputs := rfl
@[simp] theorem State.nextSymbol_cfg (s : State) : s.nextSymbol.cfg = s.cfg := rfl

@[simp] theorem State.toReset_phase (s : State) : s.toReset.phase = .rst := rfl
@[simp] theorem State.toReset_frame (s : State) : s.toReset.frame = 0 := rfl
@[simp] theorem State.toReset_bitidx (s : State) : s.toReset.bitidx = 0 := rfl
@[simp] theorem State.toReset_cnt (s : State) : s.toReset.cnt = s.cfg.treset := rfl
@[simp] theorem State.toReset_err (s : State) : s.toReset.err = false := rfl
@[simp] theorem State.toReset_build (s : State) : s.toReset.build = s.build := rfl
@[simp] theorem State.toReset_inputs (s : State) : s.toReset.inputs = s.inputs := rfl
@[simp] theorem State.toReset_cfg (s : State) : s.toReset.cfg = s.cfg := rfl

@[simp] theorem State.offerWord_phase (s : State) (w : Word) : (s.offerWord w).phase = .idle := rfl
@[simp] theorem State.offerWord_frame (s : State) (w : Word) : (s.offerWord w).frame = s.frame := rfl
@[simp] theorem State.offerWord_bitidx (s : State) (w : Word) : (s.offerWord w).bitidx = s.bitidx := rfl
@[simp] theorem State.offerWord_cnt (s : State) (w : Word) : (s.offerWord w).cnt = 0 := rfl
@[simp] theorem State.offerWord_err (s : State) (w : Word) : (s.offerWord w).err = s.err := rfl
@[simp] theorem State.offerWord_build (s : State) (w : Word) : (s.offerWord w).build = s.build := rfl
@[simp] theorem State.offerWord_inputs (s : State) (w : Word) : (s.offerWord w).inputs = s.inputs.tail.cons ⟨false, true, w⟩ := rfl
@[simp] theorem State.offerWord_cfg (s : State) (w : Word) : (s.offerWord w).cfg = s.cfg := rfl

@[simp] theorem State.resetFor_phase (b : Build) (inputs : Inputs) : (State.resetFor b inputs).phase = .rst := rfl
@[simp] theorem State.resetFor_frame (b : Build) (inputs : Inputs) : (State.resetFor b inputs).frame = 0 := rfl
@[simp] theorem State.resetFor_bitidx (b : Build) (inputs : Inputs) : (State.resetFor b inputs).bitidx = 0 := rfl
@[simp] theorem State.resetFor_cnt (b : Build) (inputs : Inputs) : (State.resetFor b inputs).cnt = b.cfg.treset := rfl
@[simp] theorem State.resetFor_err (b : Build) (inputs : Inputs) : (State.resetFor b inputs).err = false := rfl
@[simp] theorem State.resetFor_build (b : Build) (inputs : Inputs) : (State.resetFor b inputs).build = b := rfl
@[simp] theorem State.resetFor_inputs (b : Build) (inputs : Inputs) : (State.resetFor b inputs).inputs = inputs := rfl
@[simp] theorem State.resetFor_cfg (b : Build) (inputs : Inputs) : (State.resetFor b inputs).cfg = b.cfg := rfl

@[simp] theorem State.setErr_input (s : State) : s.setErr.input = s.input := rfl
@[simp] theorem State.enter_input (s : State) (p : Phase) (n : Nat) : (s.enter p n).input = s.input := rfl
@[simp] theorem State.countDown_input (s : State) : s.countDown.input = s.input := rfl
@[simp] theorem State.loadColor_input (s : State) (c : Color) : (s.loadColor c).input = s.input := rfl
@[simp] theorem State.nextSymbol_input (s : State) : s.nextSymbol.input = s.input := rfl
@[simp] theorem State.toReset_input (s : State) : s.toReset.input = s.input := rfl
@[simp] theorem State.offerWord_input (s : State) (w : Word) : (s.offerWord w).input = ⟨false, true, w⟩ := rfl

end Sys2Proof.Machine
end

