-- ==== Sys2Proof/Laws/Ops.lean ====
section
/-! SUPPORT. One spec lemma per shared operation: everything it can do. -/

namespace Sys2Proof.Machine

@[simp] theorem Inputs.now_cons (x : Inputs) (i : PortIn) : (x.cons i).now = i := rfl
@[simp] theorem Inputs.tail_cons (x : Inputs) (i : PortIn) : (x.cons i).tail = x := rfl
@[simp] theorem Inputs.take_zero (x : Inputs) : x.take 0 = [] := rfl
@[simp] theorem Inputs.take_succ (x : Inputs) (n : Nat) : x.take (n + 1) = x.now :: x.tail.take n := rfl
@[simp] theorem Inputs.drop_zero (x : Inputs) : x.drop 0 = x := rfl
@[simp] theorem Inputs.drop_succ (x : Inputs) (n : Nat) : x.drop (n + 1) = x.tail.drop n := rfl

@[simp] theorem Inputs.take_length (n : Nat) (x : Inputs) : (x.take n).length = n := by
  induction n generalizing x with
  | zero => rfl
  | succ n ih => simp [ih]

/-- The inputs of `m + n` cycles are those of `m` cycles and then those of `n`. -/
theorem Inputs.take_add (m n : Nat) (x : Inputs) : x.take (m + n) = x.take m ++ (x.drop m).take n := by
  induction m generalizing x with
  | zero => simp
  | succ m ih => simp [Nat.add_right_comm, ih]

/-- Every finite input sequence is that of some given list, whatever the host does after it. -/
theorem Inputs.take_given (given : List PortIn) (after : HostAfter) :
    (Inputs.mk given after).take given.length = given := by
  induction given with
  | nil => rfl
  | cons i rest ih => exact congrArg (i :: ·) ih

theorem State.input_eq_now (s : State) : s.input = s.inputs.now := rfl

theorem State.accepts_eq (s : State) : s.accepts = (s.input.cmdValid && !s.input.rst && s.phase == .idle) := rfl

@[simp] theorem State.cmdReady_iff (s : State) : s.cmdReady = true ↔ s.phase = .idle := by simp [State.cmdReady]

@[simp] theorem State.busy_iff (s : State) : s.busy = true ↔ s.phase ≠ .idle := by simp [State.busy]

@[simp] theorem State.dout_iff (s : State) : s.dout = true ↔ s.phase = .high := by simp [State.dout]

theorem State.busy_eq_not_cmdReady (s : State) : s.busy = !s.cmdReady := rfl

/-- What the high segment's step does (41_pulse R106). -/
theorem stepHigh_cases (s : State) :
    (1 < s.cnt ∧ stepHigh s = s.countDown) ∨ (s.cnt ≤ 1 ∧ stepHigh s = s.enter .low (tl s.cfg s.symbol)) := by
  unfold stepHigh
  split
  · exact .inl ⟨‹_›, rfl⟩
  · exact .inr ⟨by omega, rfl⟩

/-- What the low segment's step does (41_pulse R107). -/
theorem stepLow_cases (s : State) :
    (1 < s.cnt ∧ stepLow s = s.countDown) ∨
    (s.cnt ≤ 1 ∧ 23 ≤ s.bitidx.toNat ∧ stepLow s = s.enter .rst s.cfg.treset) ∨
    (s.cnt ≤ 1 ∧ s.bitidx.toNat < 23 ∧ stepLow s = s.nextSymbol.enter .high (th s.cfg s.nextSymbol.symbol)) := by
  unfold stepLow
  split
  · exact .inl ⟨‹_›, rfl⟩
  · split
    · exact .inr (.inl ⟨by omega, ‹_›, rfl⟩)
    · exact .inr (.inr ⟨by omega, by omega, rfl⟩)

/-- What the reset hold's step does (41_pulse R108). -/
theorem stepRst_cases (s : State) :
    (1 < s.cnt ∧ stepRst s = s.countDown) ∨ (s.cnt ≤ 1 ∧ stepRst s = s.enter .idle 0) := by
  unfold stepRst
  split
  · exact .inl ⟨‹_›, rfl⟩
  · exact .inr ⟨by omega, rfl⟩

/-- The phase steps read no input, change neither the colour nor the flag, the build or the schedule. -/
theorem stepHigh_frame (s : State) :
    (stepHigh s).frame = s.frame ∧ (stepHigh s).bitidx = s.bitidx ∧ (stepHigh s).err = s.err ∧
      (stepHigh s).build = s.build ∧ (stepHigh s).inputs = s.inputs := by
  rcases stepHigh_cases s with ⟨_, h⟩ | ⟨_, h⟩ <;> simp [h]

/-- See `stepHigh_frame`; the symbol index may advance. -/
theorem stepLow_frame (s : State) :
    (stepLow s).frame = s.frame ∧ (stepLow s).err = s.err ∧ (stepLow s).build = s.build ∧
      (stepLow s).inputs = s.inputs := by
  rcases stepLow_cases s with ⟨_, h⟩ | ⟨_, _, h⟩ | ⟨_, _, h⟩ <;> simp [h]

/-- See `stepHigh_frame`. -/
theorem stepRst_frame (s : State) :
    (stepRst s).frame = s.frame ∧ (stepRst s).bitidx = s.bitidx ∧ (stepRst s).err = s.err ∧
      (stepRst s).build = s.build ∧ (stepRst s).inputs = s.inputs := by
  rcases stepRst_cases s with ⟨_, h⟩ | ⟨_, h⟩ <;> simp [h]

/-- The symbol after the current one (41_pulse R107), while there is one. -/
theorem State.nextSymbol_toNat (s : State) (h : s.bitidx.toNat < 23) :
    s.nextSymbol.bitidx.toNat = s.bitidx.toNat + 1 := by
  simp [BitVec.toNat_add]
  omega

@[simp] theorem Phase.ofBits_bits (p : Phase) : Phase.ofBits p.bits = p := by cases p <;> decide

@[simp] theorem Phase.bits_ofBits (b : BitVec 2) : (Phase.ofBits b).bits = b := by revert b; decide

end Sys2Proof.Machine
end

