-- ==== Sys2Proof/Laws/PerInstr.lean ====
section
/-! SUPPORT. A statement per constructor of `Instr`, about it as syntax: the word of a well-formed command lies in its row
of spec/opcode_table.json. -/

namespace Sys2Proof.Laws.EncodingInRow

/-- The word of the command matches the mask and pattern of its row. -/
def Statement (i : Instr) : Prop :=
  i.wf = true → ∃ row, opcodeRows[i.row.val]? = some row ∧ row.matchesWord (encode i) = true

/-- A mask that covers no ignored bit, on the word of an opcode and ignored bits. -/
theorem matches_of_op {op opMask opPattern : Byte} {low : LowBits} (name : String) (h : op &&& opMask = opPattern) :
    (OpcodeRow.mk name (cmdWord opPattern 0) (cmdWord opMask 0)).matchesWord (cmdWord op low) = true := by
  simp [OpcodeRow.matchesWord, cmdWord_and, h]

theorem nop (sbz : LowBits) : Statement (.nop sbz) := fun _ =>
  ⟨_, rfl, matches_of_op (opMask := 0xFF) (opPattern := 0x00) "NOP" (by decide)⟩

theorem send (g r b : Byte) : Statement (.send g r b) := fun _ =>
  ⟨_, rfl, matches_of_op (opMask := 0xFF) (opPattern := 0x01) "SEND" (by decide)⟩

theorem hold (sbz : LowBits) : Statement (.hold sbz) := fun _ =>
  ⟨_, rfl, matches_of_op (opMask := 0xFF) (opPattern := 0x02) "HOLD" (by decide)⟩

theorem reserved03 (op : Byte) (ignored : LowBits) : Statement (.reserved03 op ignored) := fun h =>
  ⟨_, rfl, matches_of_op (opMask := 0xFF) (opPattern := 0x03) "RESERVED" (by
    change opWithin _ _ op = true at h
    revert op
    decide)⟩

theorem reserved04 (op : Byte) (ignored : LowBits) : Statement (.reserved04 op ignored) := fun h =>
  ⟨_, rfl, matches_of_op (opMask := 0xFC) (opPattern := 0x04) "RESERVED" (by
    change opWithin _ _ op = true at h
    revert op
    decide)⟩

theorem reserved08 (op : Byte) (ignored : LowBits) : Statement (.reserved08 op ignored) := fun h =>
  ⟨_, rfl, matches_of_op (opMask := 0xF8) (opPattern := 0x08) "RESERVED" (by
    change opWithin _ _ op = true at h
    revert op
    decide)⟩

theorem reserved10 (op : Byte) (ignored : LowBits) : Statement (.reserved10 op ignored) := fun h =>
  ⟨_, rfl, matches_of_op (opMask := 0xF0) (opPattern := 0x10) "RESERVED" (by
    change opWithin _ _ op = true at h
    revert op
    decide)⟩

theorem reserved20 (op : Byte) (ignored : LowBits) : Statement (.reserved20 op ignored) := fun h =>
  ⟨_, rfl, matches_of_op (opMask := 0xE0) (opPattern := 0x20) "RESERVED" (by
    change opWithin _ _ op = true at h
    revert op
    decide)⟩

theorem reserved40 (op : Byte) (ignored : LowBits) : Statement (.reserved40 op ignored) := fun h =>
  ⟨_, rfl, matches_of_op (opMask := 0xC0) (opPattern := 0x40) "RESERVED" (by
    change opWithin _ _ op = true at h
    revert op
    decide)⟩

theorem reserved80 (op : Byte) (ignored : LowBits) : Statement (.reserved80 op ignored) := fun h =>
  ⟨_, rfl, matches_of_op (opMask := 0x80) (opPattern := 0x80) "RESERVED" (by
    change opWithin _ _ op = true at h
    revert op
    decide)⟩

end Sys2Proof.Laws.EncodingInRow
end

