-- ==== Sys2Proof/Laws/Step.lean ====
section
/-! SUPPORT. Everything an executed command and a cycle can do, said once. -/

namespace Sys2Proof.Machine

/-- Everything an executed command can do (42_commands R132 to R135). -/
theorem exec_cases {i : Instr} {s t : State} (h : exec i s = .next t) :
    (∃ sbz, i = .nop sbz ∧ t = s) ∨
    (∃ g r b, i = .send g r b ∧
      t = (s.loadColor (colorOf g r b)).enter .high (th s.cfg (sym (colorOf g r b) 0))) ∨
    (∃ sbz, i = .hold sbz ∧ t = s.enter .rst s.cfg.treset) ∨
    ((∃ op, i.reservedOp? = some op) ∧ t = s.setErr) := by
  cases i <;> injection h with h <;> subst h
  case nop sbz => exact .inl ⟨sbz, rfl, rfl⟩
  case send g r b => exact .inr (.inl ⟨g, r, b, rfl, rfl⟩)
  case hold sbz => exact .inr (.inr (.inl ⟨sbz, rfl, rfl⟩))
  all_goals exact .inr (.inr (.inr ⟨⟨_, rfl⟩, rfl⟩))

theorem step_of_rst {s : State} (h : s.input.rst = true) : step s = .next s.nextInput.toReset := by
  simp [step, cycle, nextFor, h]

theorem step_of_high {s : State} (hr : s.input.rst = false) (hp : s.phase = .high) :
    step s = .next (stepHigh s.nextInput) := by
  simp [step, cycle, nextFor, hr, hp]

theorem step_of_low {s : State} (hr : s.input.rst = false) (hp : s.phase = .low) :
    step s = .next (stepLow s.nextInput) := by
  simp [step, cycle, nextFor, hr, hp]

theorem step_of_rst_phase {s : State} (hr : s.input.rst = false) (hp : s.phase = .rst) :
    step s = .next (stepRst s.nextInput) := by
  simp [step, cycle, nextFor, hr, hp]

theorem step_of_idle {s : State} (hr : s.input.rst = false) (hp : s.phase = .idle) :
    step s = stepIdle s.nextInput s.input := by
  simp [step, cycle, nextFor, hr, hp]

/-- Everything a cycle can do (41_pulse R104, 42_commands R130). -/
theorem step_cases {s t : State} (h : step s = .next t) :
    (s.input.rst = true ∧ t = s.nextInput.toReset) ∨
    (s.input.rst = false ∧ s.phase = .idle ∧ s.input.cmdValid = false ∧ t = s.nextInput) ∨
    (s.input.rst = false ∧ s.phase = .idle ∧ s.input.cmdValid = true ∧
      exec (decode s.input.cmdWord) s.nextInput = .next t) ∨
    (s.input.rst = false ∧ s.phase = .high ∧ t = stepHigh s.nextInput) ∨
    (s.input.rst = false ∧ s.phase = .low ∧ t = stepLow s.nextInput) ∨
    (s.input.rst = false ∧ s.phase = .rst ∧ t = stepRst s.nextInput) := by
  cases hr : s.input.rst
  case true => rw [step_of_rst hr] at h; injection h with h; exact .inl ⟨rfl, h.symm⟩
  case false =>
    cases hp : s.phase
    case idle =>
      rw [step_of_idle hr hp] at h
      unfold stepIdle at h
      split at h
      case isTrue hv => exact .inr (.inr (.inl ⟨rfl, rfl, hv, h⟩))
      case isFalse hv =>
        injection h with h
        exact .inr (.inl ⟨rfl, rfl, by simpa using hv, h.symm⟩)
    case high => rw [step_of_high hr hp] at h; injection h with h; simp [h]
    case low => rw [step_of_low hr hp] at h; injection h with h; simp [h]
    case rst => rw [step_of_rst_phase hr hp] at h; injection h with h; simp [h]

end Sys2Proof.Machine
end

