-- ==== Sys2Proof/Laws/Trace.lean ====
section
/-! SUPPORT. Runs and traces, unfolded once. -/

namespace Sys2Proof.Machine

@[simp] theorem run_zero (s : State) : run 0 s = .next s := rfl

theorem run_succ_of_step {s t : State} (n : Nat) (h : step s = .next t) : run (n + 1) s = run n t := by
  simp [run, h]

theorem run_one (s : State) : run 1 s = step s := by
  unfold run
  cases h : step s <;> simp [run]

/-- A run of `m + n` cycles is a run of `m` and then of `n`. -/
theorem run_add {s t : State} {m : Nat} (n : Nat) (h : run m s = .next t) : run (m + n) s = run n t := by
  induction m generalizing s with
  | zero => injection h with h; simp [h]
  | succ m ih =>
    rw [Nat.add_right_comm]
    cases hs : step s with
    | next u =>
      rw [run_succ_of_step m hs] at h
      rw [run_succ_of_step (m + n) hs]
      exact ih h
    | fault r => simp [run, hs] at h
    | refused r => simp [run, hs] at h

@[simp] theorem trace_zero (s : State) : trace 0 s = [] := rfl

theorem trace_succ_of_step {s t : State} (n : Nat) (h : step s = .next t) : trace (n + 1) s = s :: trace n t := by
  simp [trace, h]

/-- One more step of a machine behind the host's interface. -/
theorem hostRun_succ (M : Host.Core) (n : Nat) (s : M.State) :
    M.run (n + 1) s =
      (match M.step s with
      | .next t => M.run n t
      | .fault r => .fault r
      | .refused r => .refused r) := rfl

/-- The host's interface runs the same machine. -/
theorem core_run_eq_run (n : Nat) (s : State) : Host.Core.run core n s = run n s := by
  induction n generalizing s with
  | zero => rfl
  | succ n ih =>
    refine (hostRun_succ core n s).trans ?_
    cases hs : step s with
    | next t =>
      have hc : core.step s = .next t := hs
      rw [hc, run_succ_of_step n hs]
      exact ih t
    | fault r =>
      exact nomatch r
    | refused r =>
      have hc : core.step s = .refused r := hs
      rw [hc]
      simp only [run, hs]
      rfl

theorem State.noResetFor_zero (s : State) : s.NoResetFor 0 := by simp [State.NoResetFor]

/-- No reset in `n + 1` cycles: none in this one, none in the `n` after it. -/
theorem State.noResetFor_succ (s : State) (n : Nat) :
    s.NoResetFor (n + 1) ↔ s.input.rst = false ∧ s.nextInput.NoResetFor n := by
  simp [State.NoResetFor, State.input]

/-- A reset in each of `n + 1` cycles: in this one and in each of the `n` after it. -/
theorem State.resetHeldFor_succ (s : State) (n : Nat) :
    s.ResetHeldFor (n + 1) ↔ s.input.rst = true ∧ s.nextInput.ResetHeldFor n := by
  simp [State.ResetHeldFor, State.input]

end Sys2Proof.Machine
end

