-- ==== Sys2Proof/Laws/Waveform.lean ====
section
/-! SUPPORT. The invariant of 10_state R35 and the width of the counter as propositions, the port's fields, and the
slots of the phases. -/

namespace Sys2Proof.Machine

/-- `INV(s)` as 10_state R35 writes it. -/
theorem State.inv_iff (s : State) :
    s.inv = true ↔
      s.bitidx.toNat ≤ 23 ∧
      (s.phase = .idle → s.cnt = 0) ∧
      (s.phase = .high → 1 ≤ s.cnt ∧ s.cnt ≤ th s.cfg (sym s.frame s.bitidx)) ∧
      (s.phase = .low → 1 ≤ s.cnt ∧ s.cnt ≤ tl s.cfg (sym s.frame s.bitidx)) ∧
      (s.phase = .rst → 1 ≤ s.cnt ∧ s.cnt ≤ s.cfg.treset) := by
  unfold State.inv
  cases s.phase <;> simp

theorem State.cntFits_iff (s : State) : s.cntFits = true ↔ s.cnt < 2 ^ s.cfg.cntW := by simp [State.cntFits]

theorem State.offeredOp_eq (s : State) : s.offeredOp = s.input.cmdWord.toNat / 2 ^ 24 := rfl

theorem State.offeredOp_lt (s : State) : s.offeredOp < 256 := by
  have := s.input.cmdWord.isLt
  simp only [State.offeredOp]
  omega

@[simp] theorem State.withCommand_nextInput (s : State) (v : Bool) (w : Word) :
    (s.withCommand v w).nextInput = s.nextInput := rfl

@[simp] theorem State.withCommand_input (s : State) (v : Bool) (w : Word) :
    (s.withCommand v w).input = ⟨s.input.rst, v, w⟩ := rfl

@[simp] theorem State.withCommand_phase (s : State) (v : Bool) (w : Word) : (s.withCommand v w).phase = s.phase := rfl

theorem State.slot_of_idle {s : State} (h : s.phase = .idle) : s.slot = ⟨.idle, none⟩ := by simp [State.slot, h]
theorem State.slot_of_high {s : State} (h : s.phase = .high) : s.slot = ⟨.high, some s.bitidx⟩ := by
  simp [State.slot, h]
theorem State.slot_of_low {s : State} (h : s.phase = .low) : s.slot = ⟨.low, some s.bitidx⟩ := by
  simp [State.slot, h]
theorem State.slot_of_rst {s : State} (h : s.phase = .rst) : s.slot = ⟨.rst, none⟩ := by simp [State.slot, h]

/-- The symbols of a frame's slots last what the frame lasts. -/
theorem symbolSlots_length (c : Config) (color : Color) (k : BitVec 5) :
    (symbolSlots c color k).length = pairCycles c (sym color k) := by
  simp [symbolSlots, pairCycles]

end Sys2Proof.Machine
end

