-- ==== Sys2Proof/Tests/Slice0.lean ====
section
/-! SUPPORT. The model's own tests, with the expected results of spec/95_test_vectors.md or of a rule, and a witness for
the hypotheses of each statement. -/

namespace Sys2Proof.Tests

open Sys2Proof.Machine

/-- The next state of an outcome, if there is one. -/
def nextOf : Host.Outcome State Fault Refusal → Option State
  | .next t => some t
  | .fault _ => none
  | .refused _ => none

/-- A REF20 state with `err` 0 and one cycle of inputs. -/
def refState (p : Phase) (cnt : Nat) (bitidx : BitVec 5) (frame : Color) (i : PortIn) : State :=
  { phase := p, frame := frame, bitidx := bitidx, cnt := cnt, err := false, build := Build.ref20, inputs := ⟨[i], .silent⟩ }

/-- The start state of 95_test_vectors 2.4 with a command on offer. -/
def offering (w : Word) : State := refState .idle 0 23 0x0000FF ⟨false, true, w⟩

/-- The registers a test vector names: phase, cnt, bitidx, frame, err. -/
def regsOf (s : State) : Phase × Nat × Nat × Nat × Bool := (s.phase, s.cnt, s.bitidx.toNat, s.frame.toNat, s.err)

/-- The registers after one cycle. -/
def stepped (s : State) : Option (Phase × Nat × Nat × Nat × Bool) := (nextOf (step s)).map regsOf

/-- An admitted build with short counts (`RESET_MIN_CYC` = 2), so that a whole frame is short. -/
def tiny : Build := { cfg := ⟨40000, 1, 1, 2, 1, 2, 2⟩, ok := by decide }

/-- A state of the tiny build. -/
def tinyState (p : Phase) (cnt : Nat) (bitidx : BitVec 5) (frame : Color) (inputs : List PortIn) : State :=
  { phase := p, frame := frame, bitidx := bitidx, cnt := cnt, err := false, build := tiny, inputs := ⟨inputs, .silent⟩ }

/-! ## Well-formedness: each check refuses a term outside its row, on both sides -/

theorem test_wf_reserved03 : (Instr.reserved03 0x02 0).wf = false ∧ (Instr.reserved03 0x04 0).wf = false := by decide
theorem test_wf_reserved04 : (Instr.reserved04 0x03 0).wf = false ∧ (Instr.reserved04 0x08 0).wf = false := by decide
theorem test_wf_reserved08 : (Instr.reserved08 0x07 0).wf = false ∧ (Instr.reserved08 0x10 0).wf = false := by decide
theorem test_wf_reserved10 : (Instr.reserved10 0x0F 0).wf = false ∧ (Instr.reserved10 0x20 0).wf = false := by decide
theorem test_wf_reserved20 : (Instr.reserved20 0x1F 0).wf = false ∧ (Instr.reserved20 0x40 0).wf = false := by decide
theorem test_wf_reserved40 : (Instr.reserved40 0x3F 0).wf = false ∧ (Instr.reserved40 0x80 0).wf = false := by decide
theorem test_wf_reserved80 : (Instr.reserved80 0x7F 0).wf = false ∧ (Instr.reserved80 0x00 0).wf = false := by decide

/-! ## Decoding: words written out from 30_encoding R71, R72 -/

theorem test_decode_nop : decode 0b00000000_10101011_11001101_11101111 = .nop 0xABCDEF := by decide
theorem test_decode_send : decode 0b00000001_00010010_00110100_01010110 = .send 0x12 0x34 0x56 := by decide
theorem test_decode_hold : decode 0b00000010_11111111_11111111_11111111 = .hold 0xFFFFFF := by decide
theorem test_decode_reserved03 : decode 0b00000011_00000000_00000000_00000001 = .reserved03 0x03 0x000001 := by decide
theorem test_decode_reserved04 :
    decode 0b00000100_00000000_00000000_00000000 = .reserved04 0x04 0 ∧
    decode 0b00000111_00000000_00000000_00000000 = .reserved04 0x07 0 := by decide
theorem test_decode_reserved08 :
    decode 0b00001000_00000000_00000000_00000000 = .reserved08 0x08 0 ∧
    decode 0b00001111_00000000_00000000_00000000 = .reserved08 0x0F 0 := by decide
theorem test_decode_reserved10 :
    decode 0b00010000_00000000_00000000_00000000 = .reserved10 0x10 0 ∧
    decode 0b00011111_00000000_00000000_00000000 = .reserved10 0x1F 0 := by decide
theorem test_decode_reserved20 :
    decode 0b00100000_00000000_00000000_00000000 = .reserved20 0x20 0 ∧
    decode 0b00111111_00000000_00000000_00000000 = .reserved20 0x3F 0 := by decide
theorem test_decode_reserved40 :
    decode 0b01000000_00000000_00000000_00000000 = .reserved40 0x40 0 ∧
    decode 0b01111111_00000000_00000000_00000000 = .reserved40 0x7F 0 := by decide
theorem test_decode_reserved80 :
    decode 0b10000000_00000000_00000000_00000000 = .reserved80 0x80 0 ∧
    decode 0b11111111_00010010_00110100_01010110 = .reserved80 0xFF 0x123456 := by decide

theorem test_encode_send : encode (.send 0x12 0x34 0x56) = 0x01123456 := by decide
theorem test_decode_two_words_refused : decodeTableWord 64 0x01123456 = none := by decide
theorem test_decode_word_too_large : decodeBits 32 0x100000000 = .error (.tooManyBits 32 0x100000000) := by rfl

/-! ## Bit Encoder (95_test_vectors 2.1) -/

theorem test_enc_123456 :
    enc 0x123456 = [false, false, false, true, false, false, true, false, false, false, true, true, false, true, false,
      false, false, true, false, true, false, true, true, false] := by decide
theorem test_popcount : popcount 0xA5A5A5 = 12 ∧ popcount 0x800001 = 2 ∧ popcount 0x00FFFF = 16 := by decide
theorem test_sym_beyond : sym 0xFFFFFF 24 = false ∧ sym 0xFFFFFF 31 = false := by decide

/-! ## Calibration (95_test_vectors 2.2) -/

theorem test_derived_20MHz : Config.derived 20000000 10 = Config.ref20 := by decide
theorem test_treset_default : Config.derived 20000000 10 = Config.derived 20000000 10 50000 ∧
    (Config.derived 20000000 10).treset = 1000 := by decide
theorem test_derived_10MHz :
    Config.derived 10000000 9 = ⟨10000000, 4, 8, 7, 6, 500, 9⟩ ∧ (Config.derived 10000000 9).admitted = true := by
  decide
theorem test_derived_3333333Hz :
    Config.derived 3333333 8 = ⟨3333333, 1, 3, 2, 2, 167, 8⟩ ∧ (Config.derived 3333333 8).admitted = true := by
  decide
theorem test_derived_2MHz_refused : (Config.derive? 2000000 10).isNone = true := by decide
theorem test_w1_refused : ({ Config.ref20 with t0h := 0 }).admitted = false := by decide
theorem test_w3_refused : ({ Config.ref20 with treset := 999 }).admitted = false := by decide
theorem test_w4_refused : ({ Config.ref20 with t0l := 1000 }).admitted = false := by decide
theorem test_w5_refused : ({ Config.ref20 with cntW := 9 }).admitted = false := by decide
theorem test_hand_tuned_admitted : ({ Config.ref20 with t0h := 6, t1h := 15 }).admitted = true := by decide

/-! ## Phase steps (95_test_vectors 2.3) -/

theorem test_high_counts : stepped (refState .high 5 0 0xFF0000 .quiet) = some (.high, 4, 0, 0xFF0000, false) := by decide
theorem test_high_ends : stepped (refState .high 1 0 0xFF0000 .quiet) = some (.low, 12, 0, 0xFF0000, false) := by decide
theorem test_low_next_symbol : stepped (refState .low 1 15 0x00FF00 .quiet) = some (.high, 7, 16, 0x00FF00, false) := by decide
theorem test_low_last : stepped (refState .low 1 23 0xFF0000 .quiet) = some (.rst, 1000, 23, 0xFF0000, false) := by decide
theorem test_rst_ends : stepped (refState .rst 1 23 0 .quiet) = some (.idle, 0, 23, 0, false) := by decide
theorem test_high_unreachable : stepped (refState .high 0 30 0xFFFFFF .quiet) = some (.low, 16, 30, 0xFFFFFF, false) := by decide
theorem test_low_unreachable : stepped (refState .low 0 30 0xFFFFFF .quiet) = some (.rst, 1000, 30, 0xFFFFFF, false) := by decide

/-! ## Commands (95_test_vectors 2.4) -/

theorem test_no_command : stepped (refState .idle 0 23 0x0000FF ⟨false, false, 0x01FFFFFF⟩) = some (.idle, 0, 23, 0x0000FF, false) := by decide
theorem test_nop_sbz : stepped (offering 0x00ABCDEF) = some (.idle, 0, 23, 0x0000FF, false) := by decide
theorem test_send_long : stepped (offering 0x01FF0000) = some (.high, 14, 0, 0xFF0000, false) := by decide
theorem test_send_short : stepped (offering 0x017FFFFF) = some (.high, 7, 0, 0x7FFFFF, false) := by decide
theorem test_hold_sbz : stepped (offering 0x02FFFFFF) = some (.rst, 1000, 23, 0x0000FF, false) := by decide
theorem test_reserved03 : stepped (offering 0x03000000) = some (.idle, 0, 23, 0x0000FF, true) := by decide
theorem test_reserved04 : stepped (offering 0x05000000) = some (.idle, 0, 23, 0x0000FF, true) := by decide
theorem test_reserved08 : stepped (offering 0x0F000000) = some (.idle, 0, 23, 0x0000FF, true) := by decide
theorem test_reserved10 : stepped (offering 0x10000000) = some (.idle, 0, 23, 0x0000FF, true) := by decide
theorem test_reserved20 : stepped (offering 0x20000000) = some (.idle, 0, 23, 0x0000FF, true) := by decide
theorem test_reserved40 : stepped (offering 0x7F000000) = some (.idle, 0, 23, 0x0000FF, true) := by decide
theorem test_reserved80 : stepped (offering 0xFF123456) = some (.idle, 0, 23, 0x0000FF, true) := by decide
theorem test_rst_over_send :
    stepped (refState .idle 0 23 0x0000FF ⟨true, true, 0x01FF0000⟩) = some (.rst, 1000, 0, 0, false) := by decide
theorem test_not_taken_in_high :
    stepped (refState .high 5 3 0x0000FF ⟨false, true, 0x01FFFFFF⟩) = some (.high, 4, 3, 0x0000FF, false) := by decide
theorem test_not_taken_in_rst :
    stepped (refState .rst 1 23 0x0000FF ⟨false, true, 0x01FFFFFF⟩) = some (.idle, 0, 23, 0x0000FF, false) := by decide
theorem test_err_survives_send :
    stepped { offering 0x01000000 with err := true } = some (.high, 7, 0, 0, true) := by decide
theorem test_rst_clears_err :
    stepped { refState .high 3 4 0x123456 ⟨true, false, 0⟩ with err := true } = some (.rst, 1000, 0, 0, false) := by decide
theorem test_status_word : ({ offering 0 with err := true, phase := .low }).status 8 = 0b00000011 := by decide
theorem test_first_instruction_after_reset :
    (nextOf (step (State.reset.withFetchWord 32 0x01FF0000))).map (fun t => (t.phase, t.frame, t.bitidx)) =
      some (.high, 0xFF0000, 0) := by decide

/-! ## Line observer (95_test_vectors 2.6, 1.5) -/

theorem test_classify : ([1, 5, 7, 10, 11, 14, 20].map (classify Config.ref20)) =
    [false, false, false, false, true, true, true] := by decide
theorem test_reset_gap : ([16, 999, 1000, 1013].map fun n => (Run.mk false n false).isResetGap Config.ref20) =
    [false, false, true, true] := by decide
theorem test_runs : runs [false, false, true, false] = [⟨false, 2, false⟩, ⟨true, 1, false⟩, ⟨false, 1, true⟩] := by decide
theorem test_gap_checker :
    gapConformant Config.ref20 [[⟨7, 16⟩, ⟨7, 999⟩], [⟨7, 16⟩]] = false ∧
    gapConformant Config.ref20 [[⟨7, 16⟩, ⟨7, 1000⟩], [⟨7, 16⟩]] = true := by decide

/-- The two trains of 95_test_vectors 1.5, on a build where `RESET_MIN_CYC` is 2. -/
def tinyTrain (gap : Nat) : List (List Pulse) :=
  [List.replicate 23 ⟨1, 1⟩ ++ [⟨1, gap⟩], List.replicate 24 ⟨1, 1⟩]
theorem test_short_gap_on_line : trainReceived tiny.cfg (tinyTrain 1) = [.malformed 48] := by decide
theorem test_reset_gap_on_line : trainReceived tiny.cfg (tinyTrain 2) = [.color 0, .color 0] := by decide

/-! ## Notation (30_encoding R79 to R81) -/

theorem test_parse_send : parseLine "  Send 0xFF, 0, 1 ; c".toList = some (some (.command (.send 255 0 1))) := by decide
theorem test_parse_literal : parseLine "SEND #0x00FF00".toList = some (some (.command (.sendLiteral 0x00FF00))) := by decide
theorem test_parse_directive : parseLine ".reset_at 2104".toList = some (some (.resetAt 2104)) := by decide
theorem test_send_rgb : (AsmCommand.sendRgb 0x12 0x34 0x56).assemble = some 0x01341256 := by decide
theorem test_host_first_cycle : (hostOf [.reset, .command .off]).map (fun h => (h.drive, (h.advance false).drive)) =
    some (⟨true, false, 0⟩, ⟨false, true, 0x01000000⟩) := by decide
/-- An idle and a reset still to come are no commands (30_encoding R81, 43_line R159). -/
theorem test_host_finished :
    (HostState.mk 3 [9] [.wait 5]).finished = true ∧ (HostState.mk 3 [] [.wait 5, .offer 0]).finished = false := by decide
/-- A program of a `.reset` alone runs from its reset to the first `IDLE` cycle after the hold. -/
theorem test_reset_program_runs :
    (hostOf [.reset]).map (fun h => (programRun 9 h (tinyState .idle 0 0 0 [])).map State.phase) =
      some [.idle, .rst, .rst, .idle] := by decide

/-! ## The host (00_scope R7) -/

/-- After reset nothing fixes what the host drives. -/
theorem test_reset_host_is_free :
    State.reset.input = ⟨Config.hostRst 0, Config.hostCmdValid 0, Config.hostCmdWord 0⟩ ∧
    State.reset.nextInput.input = ⟨Config.hostRst 1, Config.hostCmdValid 1, Config.hostCmdWord 1⟩ := ⟨rfl, rfl⟩

/-! ## Witnesses: states and operands that meet the hypotheses of each statement. -/

/-- The tiny block in `IDLE` with a command on offer. -/
def tinyOffer (w : Word) : State := tinyState .idle 0 0 0 [⟨false, true, w⟩]

theorem witness_wf_row_ends :
    (Instr.reserved03 0x03 0).wf = true ∧ (Instr.reserved04 0x04 0).wf = true ∧ (Instr.reserved04 0x07 0).wf = true ∧
    (Instr.reserved08 0x08 0).wf = true ∧ (Instr.reserved08 0x0F 0).wf = true ∧ (Instr.reserved10 0x10 0).wf = true ∧
    (Instr.reserved10 0x1F 0).wf = true ∧ (Instr.reserved20 0x20 0).wf = true ∧ (Instr.reserved20 0x3F 0).wf = true ∧
    (Instr.reserved40 0x40 0).wf = true ∧ (Instr.reserved40 0x7F 0).wf = true ∧ (Instr.reserved80 0x80 0).wf = true ∧
    (Instr.reserved80 0xFF 0).wf = true ∧ (Instr.nop 0xFFFFFF).wf = true ∧ (Instr.send 0xFF 0xFF 0xFF).wf = true ∧
    (Instr.hold 0xFFFFFF).wf = true := by decide
theorem witness_opcodes :
    (0x00FFFFFF : Word).toNat / 2 ^ 24 = 0x00 ∧ (0x01FFFFFF : Word).toNat / 2 ^ 24 = 0x01 ∧
    (0x02FFFFFF : Word).toNat / 2 ^ 24 = 0x02 ∧ 0x03 ≤ (0x03000000 : Word).toNat / 2 ^ 24 := by decide
theorem witness_not_accepting : (tinyState .high 1 0 0 [⟨false, true, 0x01000000⟩]).accepts = false := by decide
theorem witness_accepts_nop : (tinyOffer 0x00FFFFFF).accepts = true ∧ (tinyOffer 0x00FFFFFF).offeredOp = 0x00 := by decide
theorem witness_accepts_send : (tinyOffer 0x01FFFFFF).accepts = true ∧ (tinyOffer 0x01FFFFFF).offeredOp = 0x01 := by decide
theorem witness_accepts_hold : (tinyOffer 0x02FFFFFF).accepts = true ∧ (tinyOffer 0x02FFFFFF).offeredOp = 0x02 := by decide
theorem witness_accepts_reserved : (tinyOffer 0x03000000).accepts = true ∧ 0x03 ≤ (tinyOffer 0x03000000).offeredOp := by decide
theorem witness_accepts_encoded :
    (Instr.reserved80 0xFF 1).wf = true ∧ (tinyOffer 0xFF000001).accepts = true ∧
    (tinyOffer 0xFF000001).input.cmdWord = encode (.reserved80 0xFF 1) := by decide
theorem witness_nothing_offered :
    (tinyState .idle 0 0 0 [⟨false, false, 7⟩]).phase = .idle ∧
    (∀ i ∈ (tinyState .idle 0 0 0 [⟨false, false, 7⟩]).inputs.take 5, i.rst = false ∧ i.cmdValid = false) ∧
    (tinyState .idle 0 0 0 [⟨false, false, 7⟩]).input.cmdValid = false := by decide
theorem witness_unaccepted :
    (tinyState .rst 1 0 0 []).phase ≠ .idle ∧ (tinyState .idle 0 0 0 [⟨true, true, 0⟩]).input.rst = true := by decide
theorem witness_exec : ∃ t, exec (.send 1 2 3) (tinyOffer 0) = .next t := ⟨_, rfl⟩

theorem witness_high_step :
    (tinyState .high 2 0 0 []).phase = .high ∧ (tinyState .high 2 0 0 []).input.rst = false ∧
    1 < (tinyState .high 2 0 0 []).cnt ∧ (tinyState .high 1 0 0 []).cnt ≤ 1 := by decide
theorem witness_low_step :
    (tinyState .low 2 0 0 []).phase = .low ∧ (tinyState .low 2 0 0 []).input.rst = false ∧
    1 < (tinyState .low 2 0 0 []).cnt ∧ (tinyState .low 1 23 0 []).cnt ≤ 1 ∧
    23 ≤ (tinyState .low 1 23 0 []).bitidx.toNat ∧ (tinyState .low 1 22 0 []).bitidx.toNat < 23 := by decide
theorem witness_hold_step :
    (tinyState .rst 2 0 0 []).phase = .rst ∧ (tinyState .rst 2 0 0 []).input.rst = false ∧
    1 < (tinyState .rst 2 0 0 []).cnt ∧ (tinyState .rst 1 0 0 []).cnt ≤ 1 := by decide

/-- The tiny block with `rst` asserted for `n` cycles. -/
def tinyResets (n : Nat) : State := tinyState .high 2 5 0x123456 (List.replicate n ⟨true, true, 0x01FFFFFF⟩)

theorem witness_reset_now : (tinyResets 1).input.rst = true ∧ 1 < (tinyResets 1).cfg.treset ∧
    (State.resetFor tiny ⟨[], .silent⟩).NoResetFor 1 := by decide
theorem witness_reset_held : (tinyResets 3).ResetHeldFor (2 + 1) := by decide
theorem witness_first_ready :
    (tinyResets 1).input.rst = true ∧ (tinyResets 1).nextInput.NoResetFor (tinyResets 1).cfg.treset ∧
    (tinyResets 1).nextInput.NoResetFor ((tinyResets 1).cfg.treset + 1) := by decide
/-- The first ready cycle after the reset, with a SEND on offer. -/
theorem witness_first_ready_send :
    ∃ t, run 3 { tinyResets 1 with inputs := ⟨⟨true, false, 0⟩ :: List.replicate 3 ⟨false, true, 0x01000000⟩, .silent⟩ } = .next t ∧
      t.accepts = true ∧ t.offeredOp = 0x01 := ⟨_, rfl, by decide, by decide⟩
/-- The first ready cycle after the reset, with nothing on offer. -/
theorem witness_first_ready_idle :
    ∃ t, run 3 (tinyResets 1) = .next t ∧ ¬(t.accepts = true ∧ (t.offeredOp = 0x01 ∨ t.offeredOp = 0x02)) :=
  ⟨_, rfl, by decide⟩

theorem witness_inv_step : (tinyState .high 1 23 1 []).inv = true ∧
    (∃ t, step (tinyState .high 1 23 1 []) = .next t) := ⟨by decide, _, rfl⟩
theorem witness_reachable : ∃ t, run 3 (State.resetFor tiny ⟨[], .silent⟩) = .next t := ⟨_, rfl⟩
theorem witness_cntFits_step : (tinyState .low 3 31 1 []).cntFits = true ∧
    (∃ t, step (tinyState .low 3 31 1 []) = .next t) := ⟨by decide, _, rfl⟩
theorem witness_err_sticky :
    ({ tinyOffer 0x02000000 with err := true }).err = true ∧ ({ tinyOffer 0x02000000 with err := true }).NoResetFor 4 ∧
    (∃ t, exec (.hold 0) { tinyOffer 0x02000000 with err := true } = .next t) := ⟨rfl, by decide, _, rfl⟩
theorem witness_err_step :
    (∃ t, step (tinyOffer 0x03000000) = .next t ∧ (tinyOffer 0x03000000).err = false ∧ t.err = true) ∧
    (∃ t, step { tinyResets 1 with err := true } = .next t ∧ t.err = false) :=
  ⟨⟨_, rfl, rfl, rfl⟩, ⟨_, rfl, rfl⟩⟩
theorem witness_color_step : ∃ t, step (tinyState .low 2 3 5 []) = .next t ∧
    (tinyState .low 2 3 5 []).input.rst = false ∧ (tinyState .low 2 3 5 []).accepts = false ∧
    ¬((tinyState .low 2 3 5 []).phase = .low ∧ (tinyState .low 2 3 5 []).cnt ≤ 1) := ⟨_, rfl, by decide⟩
/-- One host offers a command in mid-frame, the other drives nothing. -/
theorem witness_independence :
    (tinyState .high 2 0 5 [⟨false, true, 7⟩]).SameWave (tinyState .high 2 0 5 []) ∧
    (tinyState .high 2 0 5 [⟨false, true, 7⟩]).NoResetFor 1 ∧ (tinyState .high 2 0 5 []).NoResetFor 1 ∧
    (∀ k, k < 1 → ∀ t, run k (tinyState .high 2 0 5 [⟨false, true, 7⟩]) = .next t → t.busy = true) := by
  refine ⟨⟨rfl, rfl, rfl, rfl, rfl⟩, by decide, by decide, ?_⟩
  intro k hk t h
  obtain rfl : k = 0 := by omega
  injection h with h
  subst h
  decide

theorem witness_segment_high : ∃ t, step (tinyState .low 1 22 1 []) = .next t ∧ (tinyState .low 1 22 1 []).phase ≠ .high ∧
    t.phase = .high ∧ t.NoResetFor (th t.cfg (sym t.frame t.bitidx)) := ⟨_, rfl, by decide, by decide, by decide⟩
theorem witness_segment_low : ∃ t, step (tinyState .high 1 22 1 []) = .next t ∧ (tinyState .high 1 22 1 []).phase ≠ .low ∧
    t.phase = .low ∧ t.NoResetFor (tl t.cfg (sym t.frame t.bitidx)) := ⟨_, rfl, by decide, by decide, by decide⟩
theorem witness_segment_hold : ∃ t, step (tinyState .low 1 23 1 []) = .next t ∧ (tinyState .low 1 23 1 []).phase ≠ .rst ∧
    t.phase = .rst ∧ t.NoResetFor t.cfg.treset := ⟨_, rfl, by decide, by decide, by decide⟩
theorem witness_segment_hold_again : ∃ t, step (tinyState .rst 1 0 0 [⟨true, false, 0⟩]) = .next t ∧
    (tinyState .rst 1 0 0 [⟨true, false, 0⟩]).input.rst = true ∧ t.phase = .rst ∧ t.NoResetFor t.cfg.treset :=
  ⟨_, rfl, by decide, by decide, by decide⟩

theorem witness_send :
    (tinyOffer 0x01800001).accepts = true ∧ (tinyOffer 0x01800001).offeredOp = 0x01 ∧
    (tinyOffer 0x01800001).NoResetFor (sendCycles tiny.cfg (tinyOffer 0x01800001).offeredColor + 1) := by decide
theorem witness_hold : (tinyOffer 0x02000000).accepts = true ∧ (tinyOffer 0x02000000).offeredOp = 0x02 ∧
    (tinyOffer 0x02000000).NoResetFor ((tinyOffer 0x02000000).cfg.treset + 1) := by decide
theorem witness_offer_when_ready :
    (tinyOffer 0x02000000).input.cmdValid = true ∧ (tinyOffer 0x02000000).cmdReady = true ∧
    (tinyOffer 0x02000000).input.rst = false := by decide
theorem witness_ready_again : ∃ t, (tinyOffer 0x00000000).accepts = true ∧ step (tinyOffer 0x00000000) = .next t ∧
    t.cmdReady = true := ⟨_, by decide, rfl, by decide⟩
/-- The first ready cycle after a SEND of black, which takes 50 cycles on the tiny build. -/
theorem witness_send_complete : ∃ t, run 51 (tinyOffer 0x01000000) = .next t ∧ t.cmdReady = true ∧
    (tinyOffer 0x01000000).NoResetFor 51 := ⟨_, rfl, by decide, by decide⟩
/-- The first ready cycle after a HOLD. -/
theorem witness_hold_complete : ∃ t, run 3 (tinyOffer 0x02000000) = .next t ∧ t.cmdReady = true ∧
    (tinyOffer 0x02000000).NoResetFor 3 := ⟨_, rfl, by decide, by decide⟩
theorem witness_reaches_idle :
    (tinyState .high 0 31 0 []).NoResetFor
      (max (tinyState .high 0 31 0 []).cnt 1 + 24 * pairMax tiny.cfg + tiny.cfg.treset) := by decide
theorem witness_last_high :
    (tinyState .high 1 23 1 []).phase = .high ∧ (tinyState .high 1 23 1 []).bitidx.toNat = 23 ∧
    (tinyState .high 1 23 1 []).cnt ≤ 1 ∧ (tinyState .high 1 23 1 []).NoResetFor (tl tiny.cfg true + tiny.cfg.treset + 1) := by
  decide
theorem witness_same_color :
    (tinyOffer 0x01800001).accepts = true ∧ ({ tinyOffer 0x01800001 with bitidx := 23, err := true }).accepts = true ∧
    ({ tinyOffer 0x01800001 with bitidx := 23, err := true }).offeredColor = (tinyOffer 0x01800001).offeredColor := by decide
/-- A reachable `IDLE` state with a SEND on offer. -/
theorem witness_round_trip :
    ∃ s, run 2 (State.resetFor tiny ⟨List.replicate 3 ⟨false, true, 0x01800001⟩, .silent⟩) = .next s ∧ s.accepts = true ∧
      s.offeredOp = 0x01 ∧ s.NoResetFor (sendCycles tiny.cfg s.offeredColor + 1) :=
  ⟨_, rfl, by decide, by decide, by decide⟩
/-- A window with a whole SEND of black in it. -/
theorem witness_conformance :
    (∀ i ∈ (Inputs.mk (List.replicate 3 ⟨false, true, 0x01000000⟩) .silent).take 53, i.rst = false) ∧
    AfterCycles 53 (State.resetFor tiny ⟨List.replicate 3 ⟨false, true, 0x01000000⟩, .silent⟩) fun t => t.phase = .idle :=
  ⟨by decide, _, rfl, by decide⟩
theorem witness_calibration : (1 : Nat) ≤ 20000000 ∧ 10 ^ 9 ≤ 2 * (350 * 20000000) ∧ 2 * (350 * 1000000) < 10 ^ 9 := by decide
/-- `TRESET_NS` on either side of the minimum. -/
theorem witness_treset_ns : (49999 : Nat) < 50000 ∧ (50000 : Nat) ≤ 50000 ∧
    (Config.derive? 20000000 10 49999).isNone = true ∧ (Config.derive? 20000000 10 50000).isSome = true := by decide
/-- The two gaps on either side of `RESET_MIN_CYC`, with 48 symbols in all. -/
theorem witness_train : ∀ gap ∈ [1, 2],
    (∀ f ∈ tinyTrain gap, f ≠ [] ∧ (∀ p ∈ f, 1 ≤ p.high ∧ 1 ≤ p.low) ∧ ∀ p ∈ f.dropLast, p.low < tiny.cfg.resetMin) ∧
    (tinyTrain gap).length = 2 ∧ (tinyTrain gap).map List.length = [24, 24] ∧
    ((tinyTrain gap).head?.map gapAfter = some gap) ∧ tiny.cfg.resetMin = 2 := by decide
theorem witness_build : Config.ref20.build? = some Build.ref20 := by decide
theorem witness_host_offer :
    (HostState.mk 5 [] [.offer 7]).offered = some 7 ∧ ((HostState.mk 5 [] [.offer 7]).drives (tinyState .rst 2 0 0 [])).accepts = false ∧
    ((HostState.mk 5 [] [.offer 7]).drives (tinyState .idle 0 0 0 [])).accepts = true := by decide

end Sys2Proof.Tests
end

/-! ## Proofs of the state family: the invariant of 10_state R35 and the error flag of R26 -/

section
/-! The invariant `INV` (10_state R35): one lemma per operation, one for the step, one for a run. -/

namespace Sys2Proof

/-- The hold lasts at least a cycle (W1 of 41_pulse R102). -/
theorem Build.treset_pos (b : Build) : 1 ≤ b.cfg.treset := by
  obtain ⟨_, _, _, _, hpos⟩ := b.w1
  exact hpos

end Sys2Proof

namespace Sys2Proof.Machine

/-- A property that every step keeps holds at the end of every run from a state that has it. -/
theorem run_keeps {P : State → Prop} (hstep : ∀ s t : State, P s → step s = .next t → P t)
    {n : Nat} {s t : State} (hs : P s) (h : run n s = .next t) : P t := by
  induction n generalizing s with
  | zero => injection h with h; exact h ▸ hs
  | succ n ih =>
    cases hst : step s with
    | next u => exact ih (hstep s u hs hst) (run_succ_of_step n hst ▸ h)
    | fault r => exact nomatch r
    | refused r => simp [run, hst] at h

@[simp] theorem State.nextInput_inv (s : State) : s.nextInput.inv = s.inv := rfl
@[simp] theorem State.setErr_inv (s : State) : s.setErr.inv = s.inv := rfl

theorem State.bitidx_le_of_inv {s : State} (hs : s.inv = true) : s.bitidx.toNat ≤ 23 := (s.inv_iff.mp hs).1

theorem State.resetFor_inv (b : Build) (inputs : Inputs) : (State.resetFor b inputs).inv = true := by
  simpa [State.inv_iff] using b.treset_pos

theorem State.countDown_inv {s : State} (hs : s.inv = true) (h : 1 < s.cnt) : s.countDown.inv = true := by
  obtain ⟨hbit, hidle, hhigh, hlow, hrst⟩ := s.inv_iff.mp hs
  simp only [State.inv_iff, State.countDown_phase, State.countDown_cnt, State.countDown_bitidx,
    State.countDown_frame, State.countDown_cfg]
  refine ⟨hbit, fun hp => ?_, fun hp => ?_, fun hp => ?_, fun hp => ?_⟩
  · have := hidle hp; omega
  · have := hhigh hp; omega
  · have := hlow hp; omega
  · have := hrst hp; omega

theorem State.enter_idle_inv {s : State} (hs : s.bitidx.toNat ≤ 23) : (s.enter .idle 0).inv = true := by
  simpa [State.inv_iff] using hs

theorem State.enter_high_inv {s : State} (hs : s.bitidx.toNat ≤ 23) :
    (s.enter .high (th s.cfg s.symbol)).inv = true := by
  have hpos : 1 ≤ th s.cfg s.symbol := s.build.th_pos s.symbol
  simpa [State.inv_iff, State.symbol, hs] using hpos

theorem State.enter_low_inv {s : State} (hs : s.bitidx.toNat ≤ 23) :
    (s.enter .low (tl s.cfg s.symbol)).inv = true := by
  have hpos : 1 ≤ tl s.cfg s.symbol := s.build.tl_pos s.symbol
  simpa [State.inv_iff, State.symbol, hs] using hpos

theorem State.enter_rst_inv {s : State} (hs : s.bitidx.toNat ≤ 23) : (s.enter .rst s.cfg.treset).inv = true := by
  have hpos : 1 ≤ s.cfg.treset := s.build.treset_pos
  simpa [State.inv_iff, hs] using hpos

theorem stepHigh_keeps_inv {s : State} (hs : s.inv = true) : (stepHigh s).inv = true := by
  rcases stepHigh_cases s with ⟨hc, h⟩ | ⟨_, h⟩ <;> rw [h]
  · exact State.countDown_inv hs hc
  · exact State.enter_low_inv (State.bitidx_le_of_inv hs)

theorem stepLow_keeps_inv {s : State} (hs : s.inv = true) : (stepLow s).inv = true := by
  rcases stepLow_cases s with ⟨hc, h⟩ | ⟨_, _, h⟩ | ⟨_, hk, h⟩ <;> rw [h]
  · exact State.countDown_inv hs hc
  · exact State.enter_rst_inv (State.bitidx_le_of_inv hs)
  · exact State.enter_high_inv (s := s.nextSymbol) (by rw [s.nextSymbol_toNat hk]; omega)

theorem stepRst_keeps_inv {s : State} (hs : s.inv = true) : (stepRst s).inv = true := by
  rcases stepRst_cases s with ⟨hc, h⟩ | ⟨_, h⟩ <;> rw [h]
  · exact State.countDown_inv hs hc
  · exact State.enter_idle_inv (State.bitidx_le_of_inv hs)

theorem exec_keeps_inv {i : Instr} {s t : State} (hs : s.inv = true) (h : exec i s = .next t) : t.inv = true := by
  rcases exec_cases h with ⟨_, _, rfl⟩ | ⟨g, r, b, _, rfl⟩ | ⟨_, _, rfl⟩ | ⟨_, rfl⟩
  · exact hs
  · exact State.enter_high_inv (s := s.loadColor (colorOf g r b)) (by simp)
  · exact State.enter_rst_inv (State.bitidx_le_of_inv hs)
  · rwa [State.setErr_inv]

theorem step_keeps_inv {s t : State} (hs : s.inv = true) (h : step s = .next t) : t.inv = true := by
  have hn : s.nextInput.inv = true := by rwa [State.nextInput_inv]
  rcases step_cases h with ⟨_, rfl⟩ | ⟨_, _, _, rfl⟩ | ⟨_, _, _, he⟩ | ⟨_, _, rfl⟩ | ⟨_, _, rfl⟩ | ⟨_, _, rfl⟩
  · exact State.resetFor_inv s.build s.inputs.tail
  · exact hn
  · exact exec_keeps_inv hn he
  · exact stepHigh_keeps_inv hn
  · exact stepLow_keeps_inv hn
  · exact stepRst_keeps_inv hn

/-- Settles O24: `INV` holds in `S_RESET` and every step keeps it, so it holds at the end of every run. -/
theorem reachableStatesHaveInv : Obligations.ReachableStatesHaveInv := fun b inputs _ _ h =>
  run_keeps (fun _ _ => step_keeps_inv) (State.resetFor_inv b inputs) h

end Sys2Proof.Machine
end

section
/-! The error flag (10_state R26): what a cycle leaves in it, and that no other register depends on it. -/

namespace Sys2Proof

/-- The reserved commands are those of an opcode of at least 0x03 (30_encoding R73, R75). -/
theorem reservedOp?_decode (w : Word) :
    (decode w).reservedOp? = if 3 ≤ w.toNat / 2 ^ 24 then some (opField w) else none := by
  rw [← opField_toNat]
  have hop : (decode w).reservedOp? =
      if opField w = 0 then none else if opField w = 1 then none else if opField w = 2 then none
      else some (opField w) := by
    unfold decode
    simp only [apply_ite Instr.reservedOp?]
    simp only [Instr.reservedOp?, ite_self]
  rw [hop]
  by_cases h : 3 ≤ (opField w).toNat
  · have h0 : opField w ≠ 0 := by bv_omega
    have h1 : opField w ≠ 1 := by bv_omega
    have h2 : opField w ≠ 2 := by bv_omega
    rw [if_neg h0, if_neg h1, if_neg h2, if_pos h]
  · have hlt : opField w = 0 ∨ opField w = 1 ∨ opField w = 2 := by bv_omega
    rcases hlt with h | h | h <;> simp [h]

theorem reservedOp?_decode_isSome (w : Word) :
    (decode w).reservedOp?.isSome = decide (3 ≤ w.toNat / 2 ^ 24) := by
  rw [reservedOp?_decode]
  split
  case isTrue h => exact (decide_eq_true h).symm
  case isFalse h => exact (decide_eq_false h).symm

end Sys2Proof

namespace Sys2Proof.Machine

/-- An executed command sets `err` exactly when it is a reserved one, and never clears it (42_commands R132 to R135). -/
theorem exec_err {i : Instr} {s t : State} (h : exec i s = .next t) :
    t.err = (s.err || i.reservedOp?.isSome) := by
  rcases exec_cases h with ⟨_, rfl, rfl⟩ | ⟨g, r, b, rfl, rfl⟩ | ⟨_, rfl, rfl⟩ | ⟨⟨_, hop⟩, rfl⟩
  · simp [Instr.reservedOp?]
  · simp [Instr.reservedOp?]
  · simp [Instr.reservedOp?]
  · simp [hop]

/-- `err` after a cycle: cleared by `rst`, set by an accepted opcode of at least 0x03, else as before. -/
theorem step_err {s t : State} (h : step s = .next t) :
    t.err = (!s.input.rst && (s.err || (s.accepts && decide (3 ≤ s.offeredOp)))) := by
  rcases step_cases h with
    ⟨hr, rfl⟩ | ⟨hr, _, hv, rfl⟩ | ⟨hr, hp, hv, he⟩ | ⟨hr, hp, rfl⟩ | ⟨hr, hp, rfl⟩ | ⟨hr, hp, rfl⟩
  · simp [hr]
  · simp [State.accepts_eq, hr, hv]
  · have hop : (decode s.input.cmdWord).reservedOp?.isSome = decide (3 ≤ s.offeredOp) := reservedOp?_decode_isSome _
    simp [State.accepts_eq, hr, hv, hp, exec_err he, hop]
  · simp [State.accepts_eq, hr, hp, stepHigh_frame s.nextInput]
  · simp [State.accepts_eq, hr, hp, stepLow_frame s.nextInput]
  · simp [State.accepts_eq, hr, hp, stepRst_frame s.nextInput]

/-- The same state with another value in `err`. -/
def State.withErr (s : State) (e : Bool) : State := { s with err := e }

@[simp] theorem State.withErr_cfg (s : State) (e : Bool) : (s.withErr e).cfg = s.cfg := rfl
@[simp] theorem State.withErr_symbol (s : State) (e : Bool) : (s.withErr e).symbol = s.symbol := rfl
@[simp] theorem State.withErr_phase (s : State) (e : Bool) : (s.withErr e).phase = s.phase := rfl
@[simp] theorem State.withErr_bitidx (s : State) (e : Bool) : (s.withErr e).bitidx = s.bitidx := rfl
@[simp] theorem State.withErr_cnt (s : State) (e : Bool) : (s.withErr e).cnt = s.cnt := rfl
@[simp] theorem State.withErr_input (s : State) (e : Bool) : (s.withErr e).input = s.input := rfl
@[simp] theorem State.withErr_dout (s : State) (e : Bool) : (s.withErr e).dout = s.dout := rfl
@[simp] theorem State.withErr_nextInput (s : State) (e : Bool) :
    (s.withErr e).nextInput = s.nextInput.withErr e := rfl
@[simp] theorem State.withErr_countDown (s : State) (e : Bool) :
    (s.withErr e).countDown = s.countDown.withErr e := rfl
@[simp] theorem State.withErr_nextSymbol (s : State) (e : Bool) :
    (s.withErr e).nextSymbol = s.nextSymbol.withErr e := rfl
@[simp] theorem State.withErr_enter (s : State) (e : Bool) (p : Phase) (n : Nat) :
    (s.withErr e).enter p n = (s.enter p n).withErr e := rfl

theorem stepHigh_withErr (s : State) (e : Bool) : stepHigh (s.withErr e) = (stepHigh s).withErr e := by
  by_cases hc : 1 < s.cnt <;> simp [stepHigh, hc]

theorem stepLow_withErr (s : State) (e : Bool) : stepLow (s.withErr e) = (stepLow s).withErr e := by
  by_cases hc : 1 < s.cnt
  · simp [stepLow, hc]
  · by_cases hk : 23 ≤ s.bitidx.toNat <;> simp [stepLow, hc, hk]

theorem stepRst_withErr (s : State) (e : Bool) : stepRst (s.withErr e) = (stepRst s).withErr e := by
  by_cases hc : 1 < s.cnt <;> simp [stepRst, hc]

/-- A command does the same to every register but `err`, whatever `err` holds. -/
theorem exec_withErr {i : Instr} {s t : State} (e : Bool) (h : exec i s = .next t) :
    ∃ e', exec i (s.withErr e) = .next (t.withErr e') := by
  cases i <;> injection h with h <;> subst h
  case nop => exact ⟨e, rfl⟩
  case send => exact ⟨e, rfl⟩
  case hold => exact ⟨e, rfl⟩
  all_goals exact ⟨true, rfl⟩

/-- A cycle does the same to every register but `err`, whatever `err` holds. -/
theorem step_withErr {s t : State} (e : Bool) (h : step s = .next t) :
    ∃ e', step (s.withErr e) = .next (t.withErr e') := by
  rcases step_cases h with
    ⟨hr, rfl⟩ | ⟨hr, hp, hv, rfl⟩ | ⟨hr, hp, hv, he⟩ | ⟨hr, hp, rfl⟩ | ⟨hr, hp, rfl⟩ | ⟨hr, hp, rfl⟩
  · exact ⟨false, step_of_rst (s := s.withErr e) hr⟩
  · refine ⟨e, (step_of_idle (s := s.withErr e) hr hp).trans ?_⟩
    simp [stepIdle, hv]
  · obtain ⟨e', he'⟩ := exec_withErr e he
    refine ⟨e', (step_of_idle (s := s.withErr e) hr hp).trans ?_⟩
    simp [stepIdle, hv, he']
  · exact ⟨e, by rw [step_of_high (s := s.withErr e) hr hp, State.withErr_nextInput, stepHigh_withErr]⟩
  · exact ⟨e, by rw [step_of_low (s := s.withErr e) hr hp, State.withErr_nextInput, stepLow_withErr]⟩
  · exact ⟨e, by rw [step_of_rst_phase (s := s.withErr e) hr hp, State.withErr_nextInput, stepRst_withErr]⟩

/-- No command stops the block (60_exceptions R170). -/
theorem exec_next (i : Instr) (s : State) : ∃ t, exec i s = .next t := by
  cases i <;> exact ⟨_, rfl⟩

/-- No input and no state stops the block (60_exceptions R170). -/
theorem step_next (s : State) : ∃ t, step s = .next t := by
  cases hr : s.input.rst
  case true => exact ⟨_, step_of_rst hr⟩
  case false =>
    cases hp : s.phase
    case idle =>
      rw [step_of_idle hr hp]
      unfold stepIdle
      split
      · exact exec_next _ _
      · exact ⟨_, rfl⟩
    case high => exact ⟨_, step_of_high hr hp⟩
    case low => exact ⟨_, step_of_low hr hp⟩
    case rst => exact ⟨_, step_of_rst_phase hr hp⟩

theorem lineTrace_succ_of_step {s t : State} (n : Nat) (h : step s = .next t) :
    lineTrace (n + 1) s = s.dout :: lineTrace n t := by
  simp [lineTrace, trace_succ_of_step n h]

/-- The line does not depend on `err`. -/
theorem lineTrace_withErr (n : Nat) (s : State) (e : Bool) : lineTrace n (s.withErr e) = lineTrace n s := by
  induction n generalizing s e with
  | zero => rfl
  | succ n ih =>
    obtain ⟨t, ht⟩ := step_next s
    obtain ⟨e', he'⟩ := step_withErr e ht
    rw [lineTrace_succ_of_step n ht, lineTrace_succ_of_step n he', ih t e', State.withErr_dout]

/-- Settles O27: the first two parts read off what a cycle leaves in `err`, the third the independence of the line. -/
theorem errCauseAndNoEffectOnLine : Obligations.ErrCauseAndNoEffectOnLine := by
  refine ⟨fun s t h hs => ?_, fun s t h hs => ?_, lineTrace_withErr⟩
  · have hrst : s.accepts = true → s.input.rst = false := by
      simp +contextual [State.accepts_eq]
    simp only [step_err h, hs, Bool.false_or, Bool.and_eq_true, Bool.not_eq_true', decide_eq_true_eq]
    exact and_iff_right_of_imp fun hacc => hrst hacc.1
  · simp [step_err h, hs]

end Sys2Proof.Machine
end

/-! ## Proofs of the encoding family: the decoder of 30_encoding R73, and when the offered word matters -/

section
/-! The decoder's equations, one per case of 30_encoding R73, and the fields of a word as numbers. -/

namespace Sys2Proof

theorem opField_eq_of_toNat {w : Word} {op : Byte} (h : w.toNat / 2 ^ 24 = op.toNat) : opField w = op :=
  BitVec.eq_of_toNat_eq ((opField_toNat w).trans h)

theorem decode_nop {w : Word} (h : opField w = 0x00) : decode w = .nop (lowField w) := by
  simp [decode, h]

theorem decode_send {w : Word} (h : opField w = 0x01) : decode w = .send (gField w) (rField w) (bField w) := by
  simp [decode, h]

theorem decode_hold {w : Word} (h : opField w = 0x02) : decode w = .hold (lowField w) := by
  simp [decode, h]

theorem opField_eq_ofNat (w : Word) : opField w = BitVec.ofNat 8 (w.toNat / 2 ^ 24) := by
  rw [opField, BitVec.extractLsb', Nat.shiftRight_eq_div_pow]

theorem gField_eq_ofNat (w : Word) : gField w = BitVec.ofNat 8 (w.toNat / 2 ^ 16) := by
  rw [gField, BitVec.extractLsb', Nat.shiftRight_eq_div_pow]

theorem rField_eq_ofNat (w : Word) : rField w = BitVec.ofNat 8 (w.toNat / 2 ^ 8) := by
  rw [rField, BitVec.extractLsb', Nat.shiftRight_eq_div_pow]

theorem bField_eq_ofNat (w : Word) : bField w = BitVec.ofNat 8 w.toNat := rfl

theorem lowField_eq_ofNat (w : Word) : lowField w = BitVec.ofNat 24 w.toNat := rfl

/-- The three channel bytes are the colour, bits 23:0 (30_encoding R73, R74). -/
theorem channelFields_append (w : Word) : gField w ++ rField w ++ bField w = lowField w := by
  have hgr : gField w ++ rField w = w.extractLsb' 8 16 := BitVec.extractLsb'_append_extractLsb'_eq_extractLsb' rfl
  rw [hgr]
  exact BitVec.extractLsb'_append_extractLsb'_eq_extractLsb' rfl

end Sys2Proof

namespace Sys2Proof.Machine

/-- A block in reset or busy reads nothing of the offer (42_commands R136). -/
theorem step_withCommand_of_unready {s : State} (valid : Bool) (w : Word)
    (h : s.phase ≠ .idle ∨ s.input.rst = true) : step (s.withCommand valid w) = step s := by
  cases hr : s.input.rst
  case true => exact (step_of_rst (s := s.withCommand valid w) hr).trans (step_of_rst hr).symm
  case false =>
    cases hp : s.phase
    case idle => simp [hr, hp] at h
    case high => exact (step_of_high (s := s.withCommand valid w) hr hp).trans (step_of_high hr hp).symm
    case low => exact (step_of_low (s := s.withCommand valid w) hr hp).trans (step_of_low hr hp).symm
    case rst => exact (step_of_rst_phase (s := s.withCommand valid w) hr hp).trans (step_of_rst_phase hr hp).symm

/-- Without `cmd_valid` the word on the port is not read, whatever the phase and `rst` (42_commands R131). -/
theorem step_withCommand_of_not_valid {s : State} (w : Word) (h : s.input.cmdValid = false) :
    step (s.withCommand false w) = step s := by
  by_cases hready : s.phase ≠ .idle ∨ s.input.rst = true
  · exact step_withCommand_of_unready false w hready
  · obtain ⟨hp, hr⟩ : s.phase = .idle ∧ s.input.rst = false := by simpa using hready
    rw [step_of_idle (s := s.withCommand false w) hr hp, step_of_idle hr hp]
    simp [stepIdle, h]

theorem State.accepts_eq_false_iff (s : State) :
    s.accepts = false ↔ s.input.cmdValid = false ∨ s.phase ≠ .idle ∨ s.input.rst = true := by
  rw [State.accepts_eq]
  cases s.input.cmdValid <;> cases s.input.rst <;> simp

/-- The word on the port makes no difference in a cycle that accepts nothing (30_encoding R73). -/
theorem step_withCommand_of_not_accepts {s : State} (w : Word) (h : s.accepts = false) :
    step (s.withCommand s.input.cmdValid w) = step s := by
  rcases s.accepts_eq_false_iff.mp h with hv | hunready
  · rw [hv]
    exact step_withCommand_of_not_valid w hv
  · exact step_withCommand_of_unready _ w hunready

/-- Settles O4: the decoder's equations with the fields read as numbers, and a cycle that accepts nothing. -/
theorem decodeFollowsOpcode : Obligations.DecodeFollowsOpcode := by
  refine ⟨fun w => ⟨fun h => ?nop, fun h => ⟨?send, ?color⟩, fun h => ?hold, fun h => ?reserved⟩,
    fun _ w => step_withCommand_of_not_accepts w⟩
  case nop => rw [decode_nop (opField_eq_of_toNat h), lowField_eq_ofNat]
  case send => rw [decode_send (opField_eq_of_toNat h), gField_eq_ofNat, rField_eq_ofNat, bField_eq_ofNat]
  case color =>
    rw [decode_send (opField_eq_of_toNat h), ← lowField_eq_ofNat, ← channelFields_append]
    rfl
  case hold => rw [decode_hold (opField_eq_of_toNat h), lowField_eq_ofNat]
  case reserved => rw [reservedOp?_decode, if_pos h, opField_eq_ofNat]

end Sys2Proof.Machine
end

/-! ## Proofs of the bit-encoder family: where each colour bit stands on the line, and its inverse -/

section
/-! The symbols of a colour by index (40_bit_encoder R92) and as a binary number (R94). -/

namespace Sys2Proof.Machine

theorem sym_ofNat (c : Color) {k : Nat} (hk : k < 24) : sym c (BitVec.ofNat 5 k) = c.getLsbD (23 - k) := by
  have hindex : (BitVec.ofNat 5 k).toNat = k := by rw [BitVec.toNat_ofNat, Nat.mod_eq_of_lt (by omega)]
  rw [sym_of_le c _ (by omega), hindex]

theorem enc_getElem? (c : Color) {k : Nat} (hk : k < 24) : (enc c)[k]? = some (c.getLsbD (23 - k)) := by
  simp [enc, frameBits, hk, sym_ofNat]

/-- The channel byte at bits `lo + 7` to `lo` goes out as the eight symbols from `16 - lo` on, its most significant bit
first. -/
theorem enc_getElem?_channel (c : Color) {first lo k : Nat} (hfirst : first + lo = 16) (hk : k < 8) :
    (enc c)[first + k]? = some ((c.extractLsb' lo 8).getLsbD (7 - k)) := by
  have hbit : 23 - (first + k) = lo + (7 - k) := by omega
  have hlt : 7 - k < 8 := by omega
  rw [enc_getElem? c (by omega), hbit, BitVec.getLsbD_extractLsb', decide_eq_true hlt, Bool.true_and]

/-- Settles O41: each channel is the byte that the colour holds at its place, read through `enc_getElem?_channel`. -/
theorem encoderTable : Obligations.EncoderTable := by
  intro g r b
  refine ⟨fun k hk => ?green, fun k hk => ?red, fun k hk => ?blue, enc_length _, sym_of_gt _⟩
  case green =>
    have h := enc_getElem?_channel (colorOf g r b) (first := 0) (lo := 16) rfl hk
    rwa [Nat.zero_add, ← greenOf, greenOf_colorOf] at h
  case red =>
    have h := enc_getElem?_channel (colorOf g r b) (first := 8) (lo := 8) rfl hk
    rwa [← redOf, redOf_colorOf] at h
  case blue =>
    have h := enc_getElem?_channel (colorOf g r b) (first := 16) (lo := 0) rfl hk
    rwa [← blueOf, blueOf_colorOf] at h

theorem symbolsValue_map_range_succ (f : Nat → Sym) (n : Nat) :
    symbolsValue ((List.range (n + 1)).map f) =
      (f 0).toNat * 2 ^ n + symbolsValue ((List.range n).map fun k => f (k + 1)) := by
  simp [List.range_succ_eq_map, Function.comp_def]

/-- The value of `n + 1` symbols is the sum of their weights, `2^n` for the first. -/
theorem sum_weights_eq_symbolsValue (f : Nat → Sym) (n : Nat) :
    ((List.range (n + 1)).map fun k => (f k).toNat * 2 ^ (n - k)).sum =
      symbolsValue ((List.range (n + 1)).map f) := by
  induction n generalizing f with
  | zero => simp
  | succ n ih =>
    rw [List.sum_range_succ', symbolsValue_map_range_succ, ← ih fun k => f (k + 1)]
    simp only [Nat.succ_eq_add_one, Nat.add_sub_add_right, Nat.sub_zero]

/-- Bits `n` to 0 of a number, read as symbols from the most significant on, have its remainder by `2^(n+1)` as value. -/
theorem symbolsValue_testBit (x n : Nat) :
    symbolsValue ((List.range (n + 1)).map fun k => x.testBit (n - k)) = x % 2 ^ (n + 1) := by
  induction n with
  | zero => simpa using Nat.toNat_testBit x 0
  | succ n ih =>
    rw [symbolsValue_map_range_succ]
    simp only [Nat.add_sub_add_right, Nat.sub_zero, ih]
    rw [Nat.toNat_testBit, Nat.mod_pow_succ (k := n + 1), Nat.mul_comm, Nat.add_comm]

theorem enc_eq_map_testBit (c : Color) : enc c = (List.range 24).map fun k => c.toNat.testBit (23 - k) :=
  List.map_congr_left fun _ hk => sym_ofNat c (List.mem_range.mp hk)

/-- The receiver's reading of the 24 symbols is the colour (40_bit_encoder R94). -/
@[simp] theorem symbolsValue_enc (c : Color) : symbolsValue (enc c) = c.toNat := by
  rw [enc_eq_map_testBit, symbolsValue_testBit c.toNat 23, Nat.mod_eq_of_lt c.isLt]

theorem enc_injective : Function.Injective enc := fun c d h =>
  BitVec.eq_of_toNat_eq (by rw [← symbolsValue_enc c, h, symbolsValue_enc])

/-- Settles O42: the weighted sum is the value of the symbols, and that value is the colour. -/
theorem encoderInverse : Obligations.EncoderInverse :=
  ⟨fun c => ⟨(sum_weights_eq_symbolsValue _ 23).trans (symbolsValue_enc c), symbolsValue_enc c⟩,
    fun _ _ h => enc_injective h⟩

end Sys2Proof.Machine
end

/-! ## Proofs of the pulse transmitter family: the counts, the phase steps, the waveform of a SEND -/

section
/-! How far a derived count is from its nominal time (41_pulse R117). -/

namespace Sys2Proof.Machine

/-- A pulse count is the nearest number of cycles, or 1 when that is 0 (41_pulse R117). -/
theorem pulseCycles_accuracy (ns f : Nat) :
    (10 ^ 9 ≤ 2 * (ns * f) →
      2 * (pulseCycles ns f * 10 ^ 9) ≤ 2 * (ns * f) + 10 ^ 9 ∧
      2 * (ns * f) ≤ 2 * (pulseCycles ns f * 10 ^ 9) + 10 ^ 9) ∧
    (2 * (ns * f) < 10 ^ 9 → pulseCycles ns f = 1) := by
  simp only [pulseCycles, roundDiv, nsPerSecond]
  omega

/-- A hold count is rounded up to the next cycle (41_pulse R117). -/
theorem holdCycles_accuracy (ns f : Nat) :
    ns * f ≤ holdCycles ns f * 10 ^ 9 ∧ holdCycles ns f * 10 ^ 9 < ns * f + 10 ^ 9 := by
  simp only [holdCycles, ceilDiv, nsPerSecond]
  omega

/-- Settles O47: the four pulse counts through `pulseCycles_accuracy`, the hold through `holdCycles_accuracy`. -/
theorem derivedCountAccuracy : Obligations.DerivedCountAccuracy := by
  intro f tresetNs w _
  refine ⟨?pulses, holdCycles_accuracy tresetNs f⟩
  simp only [List.forall_mem_cons, List.not_mem_nil, false_imp_iff, implies_true, and_true]
  exact ⟨pulseCycles_accuracy 350 f, pulseCycles_accuracy 800 f, pulseCycles_accuracy 700 f, pulseCycles_accuracy 600 f⟩

end Sys2Proof.Machine
end

section
/-! Which configurations can be built (41_pulse R102). -/

namespace Sys2Proof

theorem Config.build?_isSome_iff (c : Config) : c.build?.isSome = true ↔ c.admitted = true := by
  unfold Config.build?
  split <;> simp [*]

theorem Config.build?_eq_some_iff (c : Config) (b : Build) : c.build? = some b ↔ b.cfg = c := by
  constructor
  · intro h
    unfold Config.build? at h
    split at h
    · injection h with h
      rw [← h]
    · injection h
  · rintro rfl
    exact dif_pos b.ok

/-- W1 to W5 as inequalities between numbers (41_pulse R102). -/
theorem Config.admitted_iff_bounds (c : Config) :
    c.admitted = true ↔
      (1 ≤ c.t0h ∧ 1 ≤ c.t0l ∧ 1 ≤ c.t1h ∧ 1 ≤ c.t1l ∧ 1 ≤ c.treset) ∧ c.t0h < c.t1h ∧
      c.resetMin ≤ c.treset ∧ max c.t0l c.t1l < c.resetMin ∧ c.maxCount < 2 ^ c.cntW := by
  rw [c.admitted_iff]
  simp only [Machine.checkW1, Machine.checkW2, Machine.checkW3, Machine.checkW4, Machine.checkW5, Config.maxCount,
    Bool.and_eq_true, decide_eq_true_eq, and_assoc]

theorem Config.resetMin_eq (c : Config) : c.resetMin = (50000 * c.fClkHz + 10 ^ 9 - 1) / 10 ^ 9 := rfl

theorem Config.maxCount_eq (c : Config) :
    c.maxCount = max c.t0h (max c.t0l (max c.t1h (max c.t1l c.treset))) := by
  simp only [Config.maxCount, Machine.maxCount, max_assoc]

/-- Settles O48: a configuration is built exactly when it is admitted, and a state holds a built one. -/
theorem admittedConfigurations : Obligations.AdmittedConfigurations := by
  refine ⟨fun c => ?_, fun c b => (c.build?_eq_some_iff b).mp, fun s => (s.cfg.build?_eq_some_iff s.build).mpr rfl⟩
  rw [← c.resetMin_eq, ← c.maxCount_eq, c.build?_isSome_iff, c.admitted_iff_bounds]

end Sys2Proof
end

section
/-! The busy block: the counter runs down, then the segment ends (41_pulse R106 to R108). -/

namespace Sys2Proof.Machine

/-- What follows the last cycle of a segment (41_pulse R106 to R108). -/
def State.endSegment (s : State) : State :=
  match s.phase with
  | .idle => s
  | .high => s.enter .low (tl s.cfg s.symbol)
  | .low =>
    if 23 ≤ s.bitidx.toNat then s.enter .rst s.cfg.treset else s.nextSymbol.enter .high (th s.cfg s.nextSymbol.symbol)
  | .rst => s.enter .idle 0

theorem State.endSegment_of_high {s : State} (hp : s.phase = .high) :
    s.endSegment = s.enter .low (tl s.cfg s.symbol) := by
  simp [State.endSegment, hp]

theorem State.endSegment_of_low_last {s : State} (hp : s.phase = .low) (hk : 23 ≤ s.bitidx.toNat) :
    s.endSegment = s.enter .rst s.cfg.treset := by
  simp [State.endSegment, hp, hk]

theorem State.endSegment_of_low_next {s : State} (hp : s.phase = .low) (hk : s.bitidx.toNat < 23) :
    s.endSegment = s.nextSymbol.enter .high (th s.cfg s.nextSymbol.symbol) := by
  simp [State.endSegment, hp, Nat.not_le.mpr hk]

theorem State.endSegment_of_rst {s : State} (hp : s.phase = .rst) : s.endSegment = s.enter .idle 0 := by
  simp [State.endSegment, hp]

theorem stepHigh_eq {s : State} (hp : s.phase = .high) :
    stepHigh s = if 1 < s.cnt then s.countDown else s.endSegment := by
  rw [State.endSegment_of_high hp, stepHigh]

theorem stepLow_eq {s : State} (hp : s.phase = .low) :
    stepLow s = if 1 < s.cnt then s.countDown else s.endSegment := by
  rw [State.endSegment, hp, stepLow]

theorem stepRst_eq {s : State} (hp : s.phase = .rst) :
    stepRst s = if 1 < s.cnt then s.countDown else s.endSegment := by
  rw [State.endSegment_of_rst hp, stepRst]

/-- The cycle of a busy block without reset, whatever its phase. -/
theorem step_of_busy {s : State} (hr : s.input.rst = false) (hp : s.phase ≠ .idle) :
    step s = .next (if 1 < s.cnt then s.nextInput.countDown else s.nextInput.endSegment) := by
  cases hq : s.phase
  case idle => exact absurd hq hp
  case high => rw [step_of_high hr hq, stepHigh_eq (s := s.nextInput) hq, State.nextInput_cnt]
  case low => rw [step_of_low hr hq, stepLow_eq (s := s.nextInput) hq, State.nextInput_cnt]
  case rst => rw [step_of_rst_phase hr hq, stepRst_eq (s := s.nextInput) hq, State.nextInput_cnt]

theorem step_of_busy_counting {s : State} (hr : s.input.rst = false) (hp : s.phase ≠ .idle) (hc : 1 < s.cnt) :
    step s = .next s.nextInput.countDown := by
  rw [step_of_busy hr hp, if_pos hc]

theorem step_of_busy_last {s : State} (hr : s.input.rst = false) (hp : s.phase ≠ .idle) (hc : s.cnt ≤ 1) :
    step s = .next s.nextInput.endSegment := by
  rw [step_of_busy hr hp, if_neg (Nat.not_lt.mpr hc)]

/-- Settles O15: the busy block's cycle in HIGH. -/
theorem highSegmentStep : Obligations.HighSegmentStep := by
  intro s hp hr
  have hb : s.phase ≠ .idle := by simp [hp]
  refine ⟨step_of_busy_counting hr hb, fun hc => ?_⟩
  rw [step_of_busy_last hr hb hc, State.endSegment_of_high (s := s.nextInput) hp]
  rfl

theorem State.nextSymbol_bitidx_eq_ofNat (s : State) :
    s.nextSymbol.bitidx = BitVec.ofNat 5 (s.bitidx.toNat + 1) := by
  rw [State.nextSymbol_bitidx, BitVec.ofNat_add, BitVec.ofNat_toNat, BitVec.setWidth_eq]
  rfl

/-- Settles O16: the busy block's cycle in LOW, at the last symbol and before it. -/
theorem lowSegmentStep : Obligations.LowSegmentStep := by
  intro s hp hr
  have hb : s.phase ≠ .idle := by simp [hp]
  refine ⟨step_of_busy_counting hr hb, fun hc hk => ?last, fun hc hk => ?next⟩
  case last =>
    rw [step_of_busy_last hr hb hc, State.endSegment_of_low_last (s := s.nextInput) hp hk]
    rfl
  case next =>
    rw [step_of_busy_last hr hb hc, State.endSegment_of_low_next (s := s.nextInput) hp hk,
      ← s.nextSymbol_bitidx_eq_ofNat]
    rfl

/-- Settles O17: the busy block's cycle in RST; the block that leaves it is ready. -/
theorem resetHoldStep : Obligations.ResetHoldStep := by
  intro s hp hr
  have hb : s.phase ≠ .idle := by simp [hp]
  refine ⟨step_of_busy_counting hr hb, fun hc => ⟨?_, rfl⟩⟩
  rw [step_of_busy_last hr hb hc, State.endSegment_of_rst (s := s.nextInput) hp]
  rfl

end Sys2Proof.Machine
end

section
/-! Runs and traces: what a cycle uses up, and how traces are put together. -/

namespace Sys2Proof.Machine

/-- No command changes the build or reads the host's further inputs. -/
theorem exec_build_inputs {i : Instr} {s t : State} (h : exec i s = .next t) :
    t.build = s.build ∧ t.inputs = s.inputs := by
  rcases exec_cases h with ⟨_, _, rfl⟩ | ⟨_, _, _, _, rfl⟩ | ⟨_, _, rfl⟩ | ⟨_, rfl⟩ <;> exact ⟨rfl, rfl⟩

/-- A cycle leaves the build as it is and uses up the inputs of one cycle. -/
theorem step_build_inputs {s t : State} (h : step s = .next t) : t.build = s.build ∧ t.inputs = s.inputs.tail := by
  rcases step_cases h with ⟨_, rfl⟩ | ⟨_, _, _, rfl⟩ | ⟨_, _, _, he⟩ | ⟨_, _, rfl⟩ | ⟨_, _, rfl⟩ | ⟨_, _, rfl⟩
  · exact ⟨rfl, rfl⟩
  · exact ⟨rfl, rfl⟩
  · exact exec_build_inputs he
  · obtain ⟨_, _, _, hbuild, hinputs⟩ := stepHigh_frame s.nextInput
    exact ⟨hbuild, hinputs⟩
  · obtain ⟨_, _, hbuild, hinputs⟩ := stepLow_frame s.nextInput
    exact ⟨hbuild, hinputs⟩
  · obtain ⟨_, _, _, hbuild, hinputs⟩ := stepRst_frame s.nextInput
    exact ⟨hbuild, hinputs⟩

/-- A run leaves the build as it is and uses up the inputs of its cycles. -/
theorem run_build_inputs {n : Nat} {s t : State} (h : run n s = .next t) :
    t.build = s.build ∧ t.inputs = s.inputs.drop n := by
  induction n generalizing s with
  | zero => injection h with h; subst h; exact ⟨rfl, rfl⟩
  | succ n ih =>
    obtain ⟨u, hu⟩ := step_next s
    obtain ⟨hbuild, hinputs⟩ := step_build_inputs hu
    obtain ⟨ihbuild, ihinputs⟩ := ih (run_succ_of_step n hu ▸ h)
    exact ⟨ihbuild.trans hbuild, by rw [ihinputs, hinputs, Inputs.drop_succ]⟩

/-- No reset in `m + n` cycles: none in the first `m`, none in the `n` after the run of these. -/
theorem State.noResetFor_add_iff {m : Nat} {s t : State} (n : Nat) (h : run m s = .next t) :
    s.NoResetFor (m + n) ↔ s.NoResetFor m ∧ t.NoResetFor n := by
  obtain ⟨_, hinputs⟩ := run_build_inputs h
  simp only [State.NoResetFor, hinputs, Inputs.take_add, List.forall_mem_append]

theorem State.NoResetFor.mono {m n : Nat} {s : State} (h : s.NoResetFor n) (hmn : m ≤ n) : s.NoResetFor m := by
  obtain ⟨k, rfl⟩ := Nat.exists_eq_add_of_le hmn
  intro i hi
  exact h i (by rw [Inputs.take_add]; exact List.mem_append_left _ hi)

/-- The trace of `m + n` cycles is that of `m` cycles and then that of the `n` after their run. -/
theorem trace_add {m : Nat} {s t : State} (n : Nat) (h : run m s = .next t) :
    trace (m + n) s = trace m s ++ trace n t := by
  induction m generalizing s with
  | zero => injection h with h; subst h; simp
  | succ m ih =>
    obtain ⟨u, hu⟩ := step_next s
    rw [Nat.add_right_comm, trace_succ_of_step _ hu, trace_succ_of_step _ hu, ih (run_succ_of_step m hu ▸ h),
      List.cons_append]

theorem trace_one (s : State) : trace 1 s = [s] := by
  obtain ⟨t, ht⟩ := step_next s
  rw [trace_succ_of_step 0 ht, trace_zero]

theorem afterCycles_succ_iff_of_step {s t : State} (n : Nat) (p : State → Prop) (h : step s = .next t) :
    AfterCycles (n + 1) s p ↔ AfterCycles n t p := by
  rw [AfterCycles, AfterCycles, run_succ_of_step n h]

theorem AfterCycles.imp {n : Nat} {s : State} {p q : State → Prop} (h : AfterCycles n s p) (hpq : ∀ t, p t → q t) :
    AfterCycles n s q := by
  obtain ⟨t, ht, hpt⟩ := h
  exact ⟨t, ht, hpq t hpt⟩

/-- A value seen after each of the first `n` cycles is the whole of what the trace shows. -/
theorem trace_map_eq_replicate {α : Type} (f : State → α) (x : α) {n : Nat} {s : State}
    (h : ∀ k, k < n → AfterCycles k s fun t => f t = x) : (trace n s).map f = List.replicate n x := by
  induction n generalizing s with
  | zero => rfl
  | succ n ih =>
    obtain ⟨u, hu⟩ := step_next s
    obtain ⟨_, hzero, hx⟩ := h 0 n.succ_pos
    injection hzero with hzero
    subst hzero
    have htail := ih fun k hk => (afterCycles_succ_iff_of_step k _ hu).mp (h (k + 1) (by omega))
    rw [trace_succ_of_step n hu, List.map_cons, hx, htail, List.replicate_succ]

end Sys2Proof.Machine
end

section
/-! One segment: how long it lasts, and what follows it (41_pulse R110). -/

namespace Sys2Proof.Machine

/-- The cycles the segment of the current phase lasts (41_pulse R103, R110). -/
def State.segmentCycles (s : State) : Nat :=
  match s.phase with
  | .idle => 0
  | .high => th s.cfg s.symbol
  | .low => tl s.cfg s.symbol
  | .rst => s.cfg.treset

/-- The first cycle of a segment: the counter holds the segment's whole length. -/
def State.AtSegmentStart (s : State) : Prop := s.cnt = s.segmentCycles

theorem State.segmentCycles_of_high {s : State} (hp : s.phase = .high) : s.segmentCycles = th s.cfg s.symbol := by
  simp [State.segmentCycles, hp]

theorem State.segmentCycles_of_low {s : State} (hp : s.phase = .low) : s.segmentCycles = tl s.cfg s.symbol := by
  simp [State.segmentCycles, hp]

theorem State.segmentCycles_of_rst {s : State} (hp : s.phase = .rst) : s.segmentCycles = s.cfg.treset := by
  simp [State.segmentCycles, hp]

theorem State.segmentCycles_pos {s : State} (hp : s.phase ≠ .idle) : 1 ≤ s.segmentCycles := by
  cases hq : s.phase
  case idle => exact absurd hq hp
  case high => rw [State.segmentCycles_of_high hq]; exact s.build.th_pos _
  case low => rw [State.segmentCycles_of_low hq]; exact s.build.tl_pos _
  case rst => rw [State.segmentCycles_of_rst hq]; exact s.build.treset_pos

/-- What follows a segment is at the start of the next one. -/
theorem State.endSegment_atSegmentStart {s : State} (hp : s.phase ≠ .idle) : s.endSegment.AtSegmentStart := by
  cases hq : s.phase
  case idle => exact absurd hq hp
  case high => rw [State.endSegment_of_high hq]; rfl
  case low =>
    by_cases hk : 23 ≤ s.bitidx.toNat
    · rw [State.endSegment_of_low_last hq hk]; rfl
    · rw [State.endSegment_of_low_next hq (Nat.not_le.mp hk)]; rfl
  case rst => rw [State.endSegment_of_rst hq]; rfl

/-- A command that leaves `IDLE` begins a segment. -/
theorem exec_atSegmentStart {i : Instr} {s t : State} (h : exec i s = .next t) (hp : t.phase ≠ s.phase) :
    t.AtSegmentStart := by
  rcases exec_cases h with ⟨_, _, rfl⟩ | ⟨_, _, _, _, rfl⟩ | ⟨_, _, rfl⟩ | ⟨_, rfl⟩
  · exact absurd rfl hp
  · rfl
  · rfl
  · exact absurd rfl hp

/-- A cycle that changes the phase, and one with `rst = 1`, begins a segment. -/
theorem step_atSegmentStart {s t : State} (h : step s = .next t) (hp : t.phase ≠ s.phase ∨ s.input.rst = true) :
    t.AtSegmentStart := by
  cases hr : s.input.rst
  case true =>
    rw [step_of_rst hr] at h
    injection h with h
    subst h
    rfl
  case false =>
    have hchange : t.phase ≠ s.phase := hp.resolve_right (by simp [hr])
    by_cases hidle : s.phase = .idle
    · rw [step_of_idle hr hidle, stepIdle] at h
      split at h
      · exact exec_atSegmentStart h hchange
      · injection h with h
        subst h
        exact absurd rfl hchange
    · by_cases hc : 1 < s.cnt
      · rw [step_of_busy_counting hr hidle hc] at h
        injection h with h
        subst h
        exact absurd rfl hchange
      · rw [step_of_busy_last hr hidle (Nat.not_lt.mp hc)] at h
        injection h with h
        subst h
        exact State.endSegment_atSegmentStart (s := s.nextInput) hidle

/-- The state `n` cycles later in the same segment. -/
def State.elapsed (s : State) (n : Nat) : State := { s with cnt := s.cnt - n, inputs := s.inputs.drop n }

@[simp] theorem State.elapsed_zero (s : State) : s.elapsed 0 = s := rfl
@[simp] theorem State.elapsed_phase (s : State) (n : Nat) : (s.elapsed n).phase = s.phase := rfl
@[simp] theorem State.elapsed_frame (s : State) (n : Nat) : (s.elapsed n).frame = s.frame := rfl
@[simp] theorem State.elapsed_bitidx (s : State) (n : Nat) : (s.elapsed n).bitidx = s.bitidx := rfl
@[simp] theorem State.elapsed_cnt (s : State) (n : Nat) : (s.elapsed n).cnt = s.cnt - n := rfl
@[simp] theorem State.elapsed_cfg (s : State) (n : Nat) : (s.elapsed n).cfg = s.cfg := rfl
@[simp] theorem State.elapsed_slot (s : State) (n : Nat) : (s.elapsed n).slot = s.slot := rfl

theorem State.countDown_elapsed (s : State) (n : Nat) : s.nextInput.countDown.elapsed n = s.elapsed (n + 1) := by
  have hcnt : s.cnt - 1 - n = s.cnt - (n + 1) := by omega
  simp only [State.elapsed, State.countDown, State.nextInput, hcnt, Inputs.drop_succ]

/-- Before the last cycle of a segment only the counter runs. -/
theorem run_elapsed {n : Nat} {s : State} (hp : s.phase ≠ .idle) (hn : n < s.cnt) (hr : s.NoResetFor n) :
    run n s = .next (s.elapsed n) := by
  induction n generalizing s with
  | zero => rfl
  | succ n ih =>
    obtain ⟨hrst, hrest⟩ := (s.noResetFor_succ n).mp hr
    have hlt : n < s.nextInput.countDown.cnt := by simp; omega
    rw [run_succ_of_step n (step_of_busy_counting hrst hp (by omega)), ← s.countDown_elapsed n]
    exact ih hp hlt hrest

/-- The state after the current segment. -/
def State.nextSegment (s : State) : State := (s.elapsed (s.cnt - 1)).nextInput.endSegment

theorem State.nextSegment_of_high {s : State} (hp : s.phase = .high) :
    s.nextSegment.phase = .low ∧ s.nextSegment.frame = s.frame ∧ s.nextSegment.bitidx = s.bitidx ∧
      s.nextSegment.cfg = s.cfg := by
  rw [State.nextSegment, State.endSegment_of_high (by simpa using hp)]
  exact ⟨rfl, rfl, rfl, rfl⟩

theorem State.nextSegment_of_low_next {s : State} (hp : s.phase = .low) (hk : s.bitidx.toNat < 23) :
    s.nextSegment.phase = .high ∧ s.nextSegment.frame = s.frame ∧
      s.nextSegment.bitidx.toNat = s.bitidx.toNat + 1 ∧ s.nextSegment.cfg = s.cfg := by
  rw [State.nextSegment, State.endSegment_of_low_next (by simpa using hp) (by simpa using hk)]
  exact ⟨rfl, rfl, s.nextSymbol_toNat hk, rfl⟩

theorem State.nextSegment_of_low_last {s : State} (hp : s.phase = .low) (hk : 23 ≤ s.bitidx.toNat) :
    s.nextSegment.phase = .rst ∧ s.nextSegment.cfg = s.cfg := by
  rw [State.nextSegment, State.endSegment_of_low_last (by simpa using hp) (by simpa using hk)]
  exact ⟨rfl, rfl⟩

theorem State.nextSegment_of_rst {s : State} (hp : s.phase = .rst) : s.nextSegment.phase = .idle := by
  rw [State.nextSegment, State.endSegment_of_rst (by simpa using hp), State.enter_phase]

theorem State.nextSegment_atSegmentStart {s : State} (hp : s.phase ≠ .idle) : s.nextSegment.AtSegmentStart :=
  State.endSegment_atSegmentStart (s := (s.elapsed (s.cnt - 1)).nextInput) hp

/-- A segment ends after as many cycles as its counter says. -/
theorem run_nextSegment {s : State} (hp : s.phase ≠ .idle) (hc : 1 ≤ s.cnt) (hr : s.NoResetFor s.cnt) :
    run s.cnt s = .next s.nextSegment := by
  have hcnt : s.cnt - 1 + 1 = s.cnt := by omega
  have hcounted : run (s.cnt - 1) s = .next (s.elapsed (s.cnt - 1)) :=
    run_elapsed hp (by omega) (hr.mono (by omega))
  rw [← hcnt, State.noResetFor_add_iff 1 hcounted] at hr
  have hrst : (s.elapsed (s.cnt - 1)).input.rst = false := ((State.noResetFor_succ _ 0).mp hr.2).1
  calc run s.cnt s
    _ = run (s.cnt - 1 + 1) s := by rw [hcnt]
    _ = step (s.elapsed (s.cnt - 1)) := by rw [run_add 1 hcounted, run_one]
    _ = .next s.nextSegment := step_of_busy_last hrst hp (by simp; omega)

/-- A segment lasts exactly its length, in one phase and at one symbol, and then ends (41_pulse R110). -/
theorem segment_lasts {s : State} (hp : s.phase ≠ .idle) (hs : s.AtSegmentStart) (hr : s.NoResetFor s.segmentCycles) :
    (∀ k, k < s.segmentCycles → AfterCycles k s fun u => u = s.elapsed k) ∧
      run s.segmentCycles s = .next s.nextSegment := by
  have hpos := State.segmentCycles_pos hp
  rw [← hs] at hr hpos ⊢
  exact ⟨fun k hk => ⟨_, run_elapsed hp hk (hr.mono hk.le), rfl⟩, run_nextSegment hp hpos hr⟩

/-- Settles O32: a cycle that enters a phase begins its segment, and a segment lasts its length. -/
theorem segmentLengths : Obligations.SegmentLengths := by
  intro s t hstep
  refine ⟨fun hs ht hr => ?high, fun hs ht hr => ?low, fun hs ht hr => ?hold⟩
  case high =>
    have hstart := step_atSegmentStart hstep (.inl (by rw [ht]; exact hs.symm))
    rw [← State.symbol, ← State.segmentCycles_of_high ht] at hr ⊢
    obtain ⟨hduring, hend⟩ := segment_lasts (by simp [ht]) hstart hr
    exact ⟨fun k hk => (hduring k hk).imp fun u hu => by simp [hu, ht], _, hend, (State.nextSegment_of_high ht).1⟩
  case low =>
    have hstart := step_atSegmentStart hstep (.inl (by rw [ht]; exact hs.symm))
    rw [← State.symbol, ← State.segmentCycles_of_low ht] at hr ⊢
    obtain ⟨hduring, hend⟩ := segment_lasts (by simp [ht]) hstart hr
    refine ⟨fun k hk => (hduring k hk).imp fun u hu => by simp [hu, ht], _, hend, ?_⟩
    by_cases hk : t.bitidx.toNat < 23
    · exact .inl (State.nextSegment_of_low_next ht hk).1
    · exact .inr (State.nextSegment_of_low_last ht (Nat.not_lt.mp hk)).1
  case hold =>
    have hstart := step_atSegmentStart hstep (hs.imp_left fun hs => by rw [ht]; exact hs.symm)
    rw [← State.segmentCycles_of_rst ht] at hr ⊢
    obtain ⟨hduring, hend⟩ := segment_lasts (by simp [ht]) hstart hr
    exact ⟨fun k hk => (hduring k hk).imp fun u hu => by simp [hu, ht], _, hend, State.nextSegment_of_rst ht⟩

end Sys2Proof.Machine
end

section
/-! The waveform of a SEND (41_pulse R111), segment by segment and symbol by symbol. -/

namespace Sys2Proof.Machine

/-- Unless a reset cuts it, the block passes through exactly the slots `w` from `s` on and stands in `t` after them. -/
def Plays (s : State) (w : List Slot) (t : State) : Prop :=
  s.NoResetFor w.length → run w.length s = .next t ∧ (trace w.length s).map State.slot = w

theorem Plays.append {s t u : State} {w w' : List Slot} (h : Plays s w t) (h' : Plays t w' u) :
    Plays s (w ++ w') u := by
  intro hr
  rw [List.length_append] at hr ⊢
  obtain ⟨hrun, htrace⟩ := h (hr.mono (Nat.le_add_right _ _))
  obtain ⟨_, hr'⟩ := (State.noResetFor_add_iff _ hrun).mp hr
  obtain ⟨hrun', htrace'⟩ := h' hr'
  exact ⟨(run_add _ hrun).trans hrun', by rw [trace_add _ hrun, List.map_append, htrace, htrace']⟩

theorem Plays.of_step {s t : State} (h : step s = .next t) : Plays s [s.slot] t := fun _ =>
  ⟨(run_one s).trans h, by rw [List.length_singleton, trace_one, List.map_singleton]⟩

/-- A whole segment is its slot, as many times as it has cycles. -/
theorem Plays.segment {s : State} (hp : s.phase ≠ .idle) (hs : s.AtSegmentStart) :
    Plays s (List.replicate s.segmentCycles s.slot) s.nextSegment := by
  intro hr
  rw [List.length_replicate] at hr ⊢
  obtain ⟨hduring, hend⟩ := segment_lasts hp hs hr
  exact ⟨hend, trace_map_eq_replicate _ _ fun k hk => (hduring k hk).imp fun u hu => by rw [hu, State.elapsed_slot]⟩

/-- The state after the high and the low segment of the current symbol. -/
def State.afterSymbol (s : State) : State := s.nextSegment.nextSegment

theorem State.afterSymbol_atSegmentStart {s : State} (hp : s.phase = .high) : s.afterSymbol.AtSegmentStart :=
  State.nextSegment_atSegmentStart (by simp [State.nextSegment_of_high hp])

/-- Below symbol 23 the next symbol of the same colour follows. -/
theorem State.afterSymbol_next {s : State} (hp : s.phase = .high) (hk : s.bitidx.toNat < 23) :
    s.afterSymbol.phase = .high ∧ s.afterSymbol.frame = s.frame ∧
      s.afterSymbol.bitidx.toNat = s.bitidx.toNat + 1 ∧ s.afterSymbol.cfg = s.cfg := by
  obtain ⟨hlow, hframe, hbit, hcfg⟩ := State.nextSegment_of_high hp
  rw [← hbit] at hk
  simpa only [State.afterSymbol, hframe, hbit, hcfg] using State.nextSegment_of_low_next hlow hk

/-- After symbol 23 the reset hold follows. -/
theorem State.afterSymbol_last {s : State} (hp : s.phase = .high) (hk : 23 ≤ s.bitidx.toNat) :
    s.afterSymbol.phase = .rst ∧ s.afterSymbol.cfg = s.cfg := by
  obtain ⟨hlow, _, hbit, hcfg⟩ := State.nextSegment_of_high hp
  rw [← hbit] at hk
  simpa only [State.afterSymbol, hcfg] using State.nextSegment_of_low_last hlow hk

/-- A symbol is its high segment and its low segment. -/
theorem Plays.symbol {s : State} (hp : s.phase = .high) (hs : s.AtSegmentStart) :
    Plays s (symbolSlots s.cfg s.frame s.bitidx) s.afterSymbol := by
  obtain ⟨hlow, hframe, hbit, hcfg⟩ := State.nextSegment_of_high hp
  have hhighs := Plays.segment (by simp [hp]) hs
  have hlows := Plays.segment (by simp [hlow]) (State.nextSegment_atSegmentStart (s := s) (by simp [hp]))
  rw [State.segmentCycles_of_high hp, State.slot_of_high hp] at hhighs
  rw [State.segmentCycles_of_low hlow, State.slot_of_low hlow, State.symbol, hframe, hbit, hcfg] at hlows
  exact hhighs.append hlows

/-- From the start of a symbol on the block sends it and the `n` symbols after it, up to symbol 23, and then begins the
reset hold. -/
theorem Plays.symbols {n : Nat} {s : State} (hp : s.phase = .high) (hs : s.AtSegmentStart)
    (hk : s.bitidx.toNat + n = 23) :
    ∃ t, Plays s ((List.range' s.bitidx.toNat (n + 1)).flatMap fun k =>
        symbolSlots s.cfg s.frame (BitVec.ofNat 5 k)) t ∧
      t.phase = .rst ∧ t.AtSegmentStart ∧ t.cfg = s.cfg := by
  induction n generalizing s with
  | zero =>
    obtain ⟨hrst, hcfg⟩ := State.afterSymbol_last hp (by omega)
    exact ⟨_, by simpa using Plays.symbol hp hs, hrst, State.afterSymbol_atSegmentStart hp, hcfg⟩
  | succ n ih =>
    obtain ⟨hhigh, hframe, hbit, hcfg⟩ := State.afterSymbol_next hp (by omega)
    obtain ⟨t, hplays, hrst, hstart, hcfg'⟩ := ih hhigh (State.afterSymbol_atSegmentStart hp) (by omega)
    rw [hbit, hframe, hcfg] at hplays
    refine ⟨t, ?_, hrst, hstart, hcfg'.trans hcfg⟩
    rw [List.range'_succ, List.flatMap_cons, BitVec.ofNat_toNat, BitVec.setWidth_eq]
    exact (Plays.symbol hp hs).append hplays

theorem State.accepts_iff (s : State) :
    s.accepts = true ↔ s.input.cmdValid = true ∧ s.input.rst = false ∧ s.phase = .idle := by
  simp [State.accepts_eq, and_assoc]

/-- The cycle that accepts a command executes it (42_commands R130). -/
theorem step_of_accepts {s : State} (h : s.accepts = true) : step s = exec (decode s.input.cmdWord) s.nextInput := by
  obtain ⟨hvalid, hrst, hidle⟩ := s.accepts_iff.mp h
  rw [step_of_idle hrst hidle, stepIdle, if_pos hvalid]

/-- The cycle that accepts a SEND latches the colour offered and begins the high segment of symbol 0 (42_commands R133). -/
theorem step_of_accepts_send {s : State} (h : s.accepts = true) (hop : s.offeredOp = 0x01) :
    step s = .next ((s.nextInput.loadColor s.offeredColor).enter .high (th s.cfg (sym s.offeredColor 0))) := by
  have hcolor : colorOf (gField s.input.cmdWord) (rField s.input.cmdWord) (bField s.input.cmdWord) = s.offeredColor :=
    channelFields_append s.input.cmdWord
  rw [step_of_accepts h, decode_send (opField_eq_of_toNat hop), ← hcolor]
  rfl

theorem frameSlots_eq_range' (c : Config) (color : Color) :
    frameSlots c color = (List.range' 0 24).flatMap fun k => symbolSlots c color (BitVec.ofNat 5 k) := by
  rw [frameSlots, frameBits, List.range_eq_range']

/-- A SEND from its accepting cycle to the end of its hold (41_pulse R111). -/
theorem Plays.send {s : State} (h : s.accepts = true) (hop : s.offeredOp = 0x01) :
    ∃ t, Plays s (⟨.idle, none⟩ :: (frameSlots s.cfg s.offeredColor ++ List.replicate s.cfg.treset ⟨.rst, none⟩)) t ∧
      t.phase = .idle := by
  obtain ⟨_, _, hidle⟩ := s.accepts_iff.mp h
  have haccept := Plays.of_step (step_of_accepts_send h hop)
  rw [State.slot_of_idle hidle] at haccept
  obtain ⟨t, hframe, hrst, hstart, hcfg⟩ := Plays.symbols (n := 23)
    (s := (s.nextInput.loadColor s.offeredColor).enter .high (th s.cfg (sym s.offeredColor 0))) rfl rfl rfl
  have hhold := Plays.segment (by simp [hrst]) hstart
  rw [State.segmentCycles_of_rst hrst, State.slot_of_rst hrst, hcfg] at hhold
  refine ⟨t.nextSegment, ?_, State.nextSegment_of_rst hrst⟩
  rw [frameSlots_eq_range']
  exact haccept.append (hframe.append hhold)

/-- The slots of a frame are as many as its cycles (41_pulse R111, `S(c)`). -/
@[simp] theorem frameSlots_length (c : Config) (color : Color) : (frameSlots c color).length = frameCycles c color := by
  simp [frameSlots, frameCycles, enc, List.length_flatMap, symbolSlots_length, Function.comp_def]

/-- The phase and the symbol index of every cycle of a SEND (41_pulse R111). -/
theorem send_trace_slots {s : State} (h : s.accepts = true) (hop : s.offeredOp = 0x01)
    (hr : s.NoResetFor (sendCycles s.cfg s.offeredColor + 1)) :
    (trace (sendCycles s.cfg s.offeredColor + 2) s).map State.slot = sendSlots s.cfg s.offeredColor := by
  obtain ⟨t, hplays, hidle⟩ := Plays.send h hop
  have hlength : (Slot.mk .idle none :: (frameSlots s.cfg s.offeredColor ++
      List.replicate s.cfg.treset ⟨.rst, none⟩)).length = sendCycles s.cfg s.offeredColor + 1 := by
    simp [sendCycles]
  rw [Plays, hlength] at hplays
  obtain ⟨hrun, htrace⟩ := hplays hr
  rw [trace_add 1 hrun, trace_one, List.map_append, htrace, List.map_singleton, State.slot_of_idle hidle]
  rfl

/-- The level of the line in a slot (41_pulse R105). -/
def Slot.level (x : Slot) : Bool := x.phase == .high

/-- The block is busy in a slot (10_state R28). -/
def Slot.busy (x : Slot) : Bool := x.phase != .idle

theorem State.slot_phase (s : State) : s.slot.phase = s.phase := by
  unfold State.slot
  cases s.phase <;> rfl

theorem State.slot_level (s : State) : s.slot.level = s.dout := by rw [Slot.level, s.slot_phase, State.dout]

theorem State.slot_busy (s : State) : s.slot.busy = s.busy := by rw [Slot.busy, s.slot_phase, State.busy]

theorem lineTrace_eq_map_level (n : Nat) (s : State) :
    lineTrace n s = ((trace n s).map State.slot).map Slot.level := by
  simp only [lineTrace, List.map_map, Function.comp_def, State.slot_level]

theorem countP_busy_trace (n : Nat) (s : State) :
    (trace n s).countP State.busy = ((trace n s).map State.slot).countP Slot.busy := by
  simp only [List.countP_map, Function.comp_def, State.slot_busy]

theorem symbolSlots_map_level (c : Config) (color : Color) (k : BitVec 5) :
    (symbolSlots c color k).map Slot.level =
      List.replicate (th c (sym color k)) true ++ List.replicate (tl c (sym color k)) false := by
  simp [symbolSlots, Slot.level]

/-- The line of a frame is its 24 pulse pairs. -/
theorem frameSlots_map_level (c : Config) (color : Color) :
    (frameSlots c color).map Slot.level =
      (framePulses c color).flatMap fun p => List.replicate p.1 true ++ List.replicate p.2 false := by
  simp only [frameSlots, framePulses, enc, List.map_flatMap, List.flatMap_map, symbolSlots_map_level]

theorem sendSlots_map_level (c : Config) (color : Color) :
    (sendSlots c color).map Slot.level = sendLine c color := by
  simp [sendSlots, sendLine, frameSlots_map_level, Slot.level, List.replicate_succ']

/-- Settles O33: the slots of `send_trace_slots`, and the line read off them. -/
theorem sendWaveform : Obligations.SendWaveform := by
  intro s h hop hr
  have hslots := send_trace_slots h hop hr
  exact ⟨hslots, by rw [lineTrace_eq_map_level, hslots, sendSlots_map_level]⟩

end Sys2Proof.Machine
end

section
/-! The busy time of a SEND (41_pulse R112). -/

namespace Sys2Proof.Machine

theorem symbolSlots_busy {c : Config} {color : Color} {k : BitVec 5} {x : Slot} (h : x ∈ symbolSlots c color k) :
    x.busy = true := by
  rcases List.mem_append.mp h with h | h <;> rw [List.eq_of_mem_replicate h] <;> rfl

theorem frameSlots_countP_busy (c : Config) (color : Color) :
    (frameSlots c color).countP Slot.busy = frameCycles c color := by
  rw [← frameSlots_length, List.countP_eq_length]
  intro x hx
  obtain ⟨k, _, hx⟩ := List.mem_flatMap.mp hx
  exact symbolSlots_busy hx

theorem sendSlots_countP_busy (c : Config) (color : Color) :
    (sendSlots c color).countP Slot.busy = sendCycles c color := by
  simp [sendSlots, sendCycles, frameSlots_countP_busy, Slot.busy, List.countP_replicate]

/-- A string of symbols lasts as if all were 0-symbols, and for each 1-symbol the difference of the two pairs more. -/
theorem sum_pairCycles (c : Config) (bs : List Sym) :
    (((bs.map (pairCycles c)).sum : Nat) : Int) =
      bs.length * ((c.t0h : Int) + c.t0l) +
        (bs.countP id : Int) * (((c.t1h : Int) + c.t1l) - ((c.t0h : Int) + c.t0l)) := by
  induction bs with
  | nil => simp
  | cons b bs ih =>
    rw [List.map_cons, List.sum_cons, Nat.cast_add, ih]
    cases b <;> simp [pairCycles, th, tl] <;> ring

/-- The symbols of a colour are its bits, the most significant first. -/
theorem enc_eq_reverse (color : Color) : enc color = ((List.range 24).map fun k => color.getLsbD k).reverse := by
  have hreverse : (List.range 24).reverse = (List.range 24).map (23 - ·) := by decide
  rw [enc_eq_map_testBit, ← List.map_reverse, hreverse, List.map_map]
  rfl

theorem popcount_eq_countP (color : Color) : popcount color = (List.range 24).countP fun k => color.getLsbD k := by
  rw [popcount, enc_eq_reverse, List.countP_reverse, List.countP_map]
  rfl

/-- `S(c)` in closed form (41_pulse R112). -/
theorem frameCycles_closed_form (c : Config) (color : Color) :
    (frameCycles c color : Int) =
      24 * ((c.t0h : Int) + c.t0l) + (popcount color : Int) * (((c.t1h : Int) + c.t1l) - ((c.t0h : Int) + c.t0l)) := by
  rw [frameCycles, sum_pairCycles, enc_length, popcount]
  rfl

theorem frameCycles_ref20 (color : Color) : frameCycles Config.ref20 color = 552 + 3 * popcount color := by
  have hform := frameCycles_closed_form Config.ref20 color
  simp only [Config.ref20] at hform
  simp only [Config.ref20]
  omega

/-- Settles O34: the closed form, its numbers in REF20, and the busy slots of `sendSlots`. -/
theorem sendBusyTime : Obligations.SendBusyTime := by
  simp only [Obligations.SendBusyTime, ← popcount_eq_countP]
  refine ⟨fun c color => ⟨frameCycles_closed_form c color, rfl⟩,
    fun color => ⟨frameCycles_ref20 color, ?ref20⟩, fun s h hop hr => ?busy⟩
  case ref20 =>
    rw [sendCycles, frameCycles_ref20]
    simp only [Config.ref20]
    omega
  case busy => rw [countP_busy_trace, send_trace_slots h hop hr, sendSlots_countP_busy]

end Sys2Proof.Machine
end

/-! ## Proofs of the command family: what each command does at its accepting edge, and when it is over (42_commands) -/

section
/-! The accepting edge: the decoded command is the encoded one, and one equation per command (42_commands R130 to R135). -/

namespace Sys2Proof

@[simp] theorem opWithin_iff (lo hi : Nat) (op : Byte) :
    opWithin lo hi op = true ↔ lo ≤ op.toNat ∧ op.toNat ≤ hi := by
  simp [opWithin]

theorem gField_eq_greenOf (w : Word) : gField w = Machine.greenOf (lowField w) := by
  simp [gField, Machine.greenOf, lowField]

theorem rField_eq_redOf (w : Word) : rField w = Machine.redOf (lowField w) := by
  simp [rField, Machine.redOf, lowField]

theorem bField_eq_blueOf (w : Word) : bField w = Machine.blueOf (lowField w) := by
  simp [bField, Machine.blueOf, lowField]

theorem decode_encode_send (g r b : Byte) : decode (encode (.send g r b)) = .send g r b := by
  rw [encode, decode_send (opField_cmdWord _ _), gField_eq_greenOf, rField_eq_redOf, bField_eq_blueOf,
    lowField_cmdWord, ← Machine.colorOf, Machine.greenOf_colorOf, Machine.redOf_colorOf, Machine.blueOf_colorOf]

/-- Decoding gives back a well-formed command with all its bits (30_encoding R71 to R73). In a reserved row the bounds of
`wf` decide every test of the decoder before the row's own, and that one. -/
theorem decode_encode {i : Instr} (h : i.wf = true) : decode (encode i) = i := by
  cases i
  case nop sbz => rw [encode, decode_nop (opField_cmdWord _ _), lowField_cmdWord]
  case send g r b => exact decode_encode_send g r b
  case hold sbz => rw [encode, decode_hold (opField_cmdWord _ _), lowField_cmdWord]
  all_goals
    simp only [Instr.wf, opWithin_iff] at h
    simp (disch := omega) only [encode, decode, opField_cmdWord, lowField_cmdWord, ← BitVec.toNat_inj, BitVec.le_def,
      BitVec.reduceToNat, if_neg, if_pos]

end Sys2Proof

namespace Sys2Proof.Machine

/-- Every reserved command sets `err` and does nothing else (42_commands R135). -/
theorem exec_of_reserved {i : Instr} {op : Byte} (h : i.reservedOp? = some op) (s : State) :
    exec i s = .next s.setErr := by
  cases i
  case nop => exact nomatch h
  case send => exact nomatch h
  case hold => exact nomatch h
  all_goals rfl

/-- The cycle that accepts a NOP changes no register (42_commands R132). -/
theorem step_of_accepts_nop {s : State} (h : s.accepts = true) (hop : s.offeredOp = 0x00) :
    step s = .next s.nextInput := by
  rw [step_of_accepts h, decode_nop (opField_eq_of_toNat hop)]
  rfl

/-- The cycle that accepts a HOLD begins the reset hold (42_commands R134). -/
theorem step_of_accepts_hold {s : State} (h : s.accepts = true) (hop : s.offeredOp = 0x02) :
    step s = .next (s.nextInput.enter .rst s.cfg.treset) := by
  rw [step_of_accepts h, decode_hold (opField_eq_of_toNat hop)]
  rfl

/-- The cycle that accepts a reserved command sets `err` (42_commands R135). -/
theorem step_of_accepts_reserved {s : State} (h : s.accepts = true) (hop : 0x03 ≤ s.offeredOp) :
    step s = .next s.nextInput.setErr := by
  have hreserved : (decode s.input.cmdWord).reservedOp? = some (opField s.input.cmdWord) :=
    (reservedOp?_decode _).trans (if_pos hop)
  rw [step_of_accepts h, exec_of_reserved hreserved]

theorem State.phase_of_accepts (s : State) (h : s.accepts = true) : s.phase = .idle := by
  obtain ⟨_, _, hidle⟩ := s.accepts_iff.mp h
  exact hidle

/-- With nothing offered an idle block stays as it is (42_commands R131). -/
theorem step_of_not_valid {s : State} (hp : s.phase = .idle) (hr : s.input.rst = false)
    (hv : s.input.cmdValid = false) : step s = .next s.nextInput := by
  rw [step_of_idle hr hp, stepIdle, if_neg (by simp [hv])]

/-- `err` stays set as long as there is no reset (60_exceptions R172). -/
theorem afterCycles_err {n : Nat} {s : State} (hs : s.err = true) (hr : s.NoResetFor n) :
    AfterCycles n s fun t => t.err = true := by
  induction n generalizing s with
  | zero => exact ⟨s, rfl, hs⟩
  | succ n ih =>
    obtain ⟨hrst, hrest⟩ := (s.noResetFor_succ n).mp hr
    obtain ⟨t, ht⟩ := step_next s
    obtain ⟨_, hinputs⟩ := step_build_inputs ht
    rw [afterCycles_succ_iff_of_step n _ ht]
    refine ih (by simp [step_err ht, hrst, hs]) ?_
    rw [State.NoResetFor, hinputs]
    exact hrest

/-- Settles O6: the equations of `exec` and of the accepting cycle. -/
theorem nopChangesNothing : Obligations.NopChangesNothing :=
  ⟨fun _ _ => rfl, fun s h hop =>
    ⟨step_of_accepts_nop h hop, (State.cmdReady_iff _).mpr (s.phase_of_accepts h)⟩⟩

/-- Settles O9: the equations of `exec` and of the accepting cycle; the flag is then kept. -/
theorem reservedSetsErrOnly : Obligations.ReservedSetsErrOnly := by
  refine ⟨fun op ignored s => ?rows, fun s h hop => ⟨step_of_accepts_reserved h hop, ?ready, fun n hr => ?sticky⟩⟩
  case rows => exact ⟨rfl, rfl, rfl, rfl, rfl, rfl, rfl⟩
  case ready => exact (State.cmdReady_iff _).mpr (s.phase_of_accepts h)
  case sticky =>
    obtain ⟨_, hrest⟩ := (s.noResetFor_succ n).mp hr
    exact (afterCycles_succ_iff_of_step n _ (step_of_accepts_reserved h hop)).mpr (afterCycles_err rfl hrest)

/-- Settles O11: when an offer is accepted, and the accepting cycle with the decoder's inverse. -/
theorem acceptedCommandRuns : Obligations.AcceptedCommandRuns := by
  intro s
  refine ⟨s.accepts_iff, s.cmdReady_iff, step_of_accepts, step_of_not_valid, fun i hwf h hword => ?_⟩
  rw [step_of_accepts h, hword, decode_encode hwf]
  rfl

/-- Settles O14: what is not accepted is not read. -/
theorem unacceptedOfferLeavesNoTrace : Obligations.UnacceptedOfferLeavesNoTrace := fun s valid w h =>
  ⟨s.accepts_eq_false_iff.mpr (.inr h), step_withCommand_of_unready valid w h⟩

/-- With nothing offered for `n` cycles an idle block uses up the inputs of these and changes no register. -/
theorem run_of_nothing_offered {n : Nat} {s : State} (hp : s.phase = .idle)
    (h : ∀ i ∈ s.inputs.take n, i.rst = false ∧ i.cmdValid = false) :
    run n s = .next { s with inputs := s.inputs.drop n } := by
  induction n generalizing s with
  | zero => rfl
  | succ n ih =>
    rw [Inputs.take_succ, List.forall_mem_cons] at h
    obtain ⟨⟨hrst, hvalid⟩, hrest⟩ := h
    rw [run_succ_of_step n (step_of_not_valid hp hrst hvalid)]
    exact ih (s := s.nextInput) hp hrest

/-- Settles O13: the run of an idle block with nothing offered, and the cycle that reads no word. -/
theorem idleWithoutCommand : Obligations.IdleWithoutCommand :=
  ⟨fun _ s hp h => ⟨_, run_of_nothing_offered hp h, rfl, by simp [State.dout, hp]⟩,
    fun _ w hv => step_withCommand_of_not_valid w hv⟩

end Sys2Proof.Machine
end

section
/-! When a command is over (42_commands R137), and that a SEND's line depends on its colour alone (R138). -/

namespace Sys2Proof.Machine

/-- What the trace shows at a place is what holds after so many cycles. -/
theorem afterCycles_of_trace_map {α : Type} {f : State → α} {n k : Nat} {s : State} {x : α}
    (h : ((trace n s).map f)[k]? = some x) : AfterCycles k s fun t => f t = x := by
  induction n generalizing k s with
  | zero => simp at h
  | succ n ih =>
    obtain ⟨t, ht⟩ := step_next s
    rw [trace_succ_of_step n ht, List.map_cons] at h
    cases k with
    | zero => exact ⟨s, rfl, by simpa using h⟩
    | succ k => exact (afterCycles_succ_iff_of_step k _ ht).mpr (ih (by simpa using h))

/-- The block is busy in every slot of a frame and of the hold after it. -/
theorem frameSlots_append_hold_busy (c : Config) (color : Color) :
    ∀ x ∈ frameSlots c color ++ List.replicate c.treset ⟨.rst, none⟩, x.busy = true := by
  rw [List.forall_mem_append]
  refine ⟨List.countP_eq_length.mp ?_, fun x hx => ?_⟩
  · rw [frameSlots_countP_busy, frameSlots_length]
  · rw [List.eq_of_mem_replicate hx]
    rfl

/-- Between its accepting cycle and its return to `IDLE` every slot of a SEND is busy. -/
theorem sendSlots_getElem?_busy {c : Config} {color : Color} {k : Nat} (h1 : 1 ≤ k) (hk : k ≤ sendCycles c color) :
    ∃ x, (sendSlots c color)[k]? = some x ∧ x.busy = true := by
  obtain ⟨j, rfl⟩ := Nat.exists_eq_add_of_le' h1
  have hj : j < (frameSlots c color ++ List.replicate c.treset (Slot.mk .rst none)).length := by
    simpa [sendCycles] using hk
  refine ⟨_, ?_, frameSlots_append_hold_busy c color _ (List.getElem_mem hj)⟩
  rw [sendSlots, List.getElem?_cons_succ, List.getElem?_append_left hj, List.getElem?_eq_getElem hj]

theorem sendSlots_getElem?_last (c : Config) (color : Color) :
    (sendSlots c color)[sendCycles c color + 1]? = some ⟨.idle, none⟩ := by
  simp [sendSlots, sendCycles]

/-- After a HOLD is accepted the block is busy for the hold and then ready (42_commands R137). -/
theorem hold_completes {s : State} (h : s.accepts = true) (hop : s.offeredOp = 0x02)
    (hr : s.NoResetFor (s.cfg.treset + 1)) :
    (∀ k, 1 ≤ k → k ≤ s.cfg.treset → AfterCycles k s fun t => t.busy = true) ∧
      AfterCycles (s.cfg.treset + 1) s fun t => t.cmdReady = true := by
  have hstep := step_of_accepts_hold h hop
  obtain ⟨_, hrest⟩ := (s.noResetFor_succ _).mp hr
  obtain ⟨hduring, hend⟩ := segment_lasts (s := s.nextInput.enter .rst s.cfg.treset) (by simp) rfl hrest
  refine ⟨fun k h1 hk => ?_, (afterCycles_succ_iff_of_step _ _ hstep).mpr ⟨_, hend, ?_⟩⟩
  · obtain ⟨j, rfl⟩ := Nat.exists_eq_add_of_le' h1
    exact (afterCycles_succ_iff_of_step j _ hstep).mpr ((hduring j hk).imp fun u hu => by simp [hu])
  · exact (State.cmdReady_iff _).mpr (State.nextSegment_of_rst rfl)

/-- After a SEND is accepted the block is busy for `D_SEND(c)` cycles and then in `IDLE` (42_commands R137). -/
theorem send_completes {s : State} (h : s.accepts = true) (hop : s.offeredOp = 0x01)
    (hr : s.NoResetFor (sendCycles s.cfg s.offeredColor + 1)) :
    (∀ k, 1 ≤ k → k ≤ sendCycles s.cfg s.offeredColor → AfterCycles k s fun t => t.busy = true) ∧
      AfterCycles (sendCycles s.cfg s.offeredColor + 1) s fun t => t.phase = .idle := by
  have hslots := send_trace_slots h hop hr
  refine ⟨fun k h1 hk => ?_, ?_⟩
  · obtain ⟨x, hx, hbusy⟩ := sendSlots_getElem?_busy h1 hk
    rw [← hslots] at hx
    exact (afterCycles_of_trace_map hx).imp fun t ht => by rw [← t.slot_busy, ht, hbusy]
  · have hlast := sendSlots_getElem?_last s.cfg s.offeredColor
    rw [← hslots] at hlast
    exact (afterCycles_of_trace_map hlast).imp fun t ht => by rw [← t.slot_phase, ht]

/-- NOP and the reserved commands leave the block in `IDLE`. -/
theorem afterCycles_one_idle_of_accepts {s : State} (h : s.accepts = true)
    (hop : s.offeredOp = 0x00 ∨ 0x03 ≤ s.offeredOp) : AfterCycles 1 s fun t => t.phase = .idle := by
  have hidle := s.phase_of_accepts h
  rcases hop with hop | hop
  · exact ⟨_, (run_one s).trans (step_of_accepts_nop h hop), hidle⟩
  · exact ⟨_, (run_one s).trans (step_of_accepts_reserved h hop), hidle⟩

/-- Settles O35: one lemma per kind of command; an idle block accepts every offer made without reset. -/
theorem completionTimes : Obligations.CompletionTimes := by
  intro s h
  refine ⟨fun hop => ?atOnce, hold_completes h, fun hop hr => ?send⟩
  case atOnce =>
    exact (afterCycles_one_idle_of_accepts h hop).imp fun t ht => ⟨by simp [State.busy, ht], t.cmdReady_iff.mpr ht⟩
  case send =>
    obtain ⟨hbusy, hidle⟩ := send_completes h hop hr
    exact ⟨hbusy, hidle.imp fun t ht => ⟨t.cmdReady_iff.mpr ht, by simp [State.accepts_eq, ht]⟩⟩

/-- Settles O40: each line is `sendLine` of the build and the colour (41_pulse R111). -/
theorem sameColorSameLine : Obligations.SameColorSameLine := by
  intro s t hs hops hrs ht hopt hrt hcolor hbuild
  have hcfg : t.cfg = s.cfg := congrArg Build.cfg hbuild
  obtain ⟨_, hlines⟩ := sendWaveform s hs hops hrs
  rw [← hcfg, ← hcolor] at hrt
  obtain ⟨_, hlinet⟩ := sendWaveform t ht hopt hrt
  rw [hcfg, hcolor] at hlinet
  exact hlinet.trans hlines.symm

end Sys2Proof.Machine
end

/-! ## Proofs of the line observation family: the classifier, the frame on the line, the gap before it (43_line) -/

section
/-! The midpoint classifier reads every symbol of an admitted configuration (43_line R153). -/

namespace Sys2Proof.Machine

theorem classify_iff (c : Config) (h : Nat) : classify c h = true ↔ c.t0h + c.t1h < 2 * h := decide_eq_true_iff

/-- A symbol's high time is classified as the symbol: W2 puts the midpoint between the two high times. -/
@[simp] theorem classify_th (b : Build) (x : Sym) : classify b.cfg (th b.cfg x) = x := by
  have hw2 := b.w2
  cases x
  case false => rw [th_false, ← Bool.not_eq_true, classify_iff]; omega
  case true => rw [th_true, classify_iff]; omega

/-- Settles O43: the definition's threshold, and the two symbols through `classify_th`. -/
theorem classifierSeparates : Obligations.ClassifierSeparates :=
  ⟨classify_iff, fun b => ⟨classify_th b false, classify_th b true⟩⟩

end Sys2Proof.Machine
end

section
/-! What the observer reads from pulses on the line: the runs, the pulses, the frames (43_line R151, R152). -/

namespace Sys2Proof.Machine

/-- The first run has the level of the first cycle. -/
theorem runs_head?_level (o : List Bool) : (runs o).head?.map Run.level = o.head? := by
  cases o with
  | nil => rfl
  | cons b bs =>
    rw [runs_cons]
    cases runs bs with
    | nil => rfl
    | cons r rs =>
      rw [consRun]
      split
      case isTrue hlevel => simp [hlevel]
      case isFalse => rfl

/-- A stretch of one level is a run of its own when the other level follows, and an open one when the line ends. -/
theorem runs_replicate_append {b : Bool} {o : List Bool} (ho : o.head? ≠ some b) (n : Nat) :
    runs (List.replicate (n + 1) b ++ o) = ⟨b, n + 1, o.isEmpty⟩ :: runs o := by
  induction n with
  | zero =>
    cases o with
    | nil => rfl
    | cons x xs =>
      have hlevel := runs_head?_level (x :: xs)
      cases hruns : runs (x :: xs) with
      | nil => rw [hruns] at hlevel; exact nomatch hlevel
      | cons r rs =>
        rw [← hlevel, hruns] at ho
        have hne : r.level ≠ b := by simpa using ho
        calc
          runs (b :: x :: xs) = consRun b (r :: rs) := by rw [runs_cons, hruns]
          _ = ⟨b, 1, false⟩ :: r :: rs := if_neg hne
  | succ n ih =>
    rw [List.replicate_succ, List.cons_append, runs_cons, ih]
    simp [consRun]

@[simp] theorem pulsesOf_low_cons (n : Nat) (isOpen : Bool) (rs : List Run) :
    pulsesOf (⟨false, n, isOpen⟩ :: rs) = pulsesOf rs := by
  cases rs <;> simp [pulsesOf]

@[simp] theorem pulsesOf_high_cons (n : Nat) (isOpen : Bool) (r : Run) (rs : List Run) :
    pulsesOf (⟨true, n, isOpen⟩ :: r :: rs) = ⟨n, r.length⟩ :: pulsesOf rs := rfl

/-- A pulse with a high and a low of at least a cycle, as every pulse on a line has. -/
def Pulse.Proper (p : Pulse) : Prop := 1 ≤ p.high ∧ 1 ≤ p.low

/-- Pulses on the line begin with a high. -/
theorem head?_flatMap_line {ps : List Pulse} (h : ∀ p ∈ ps, p.Proper) :
    (ps.flatMap Pulse.line).head? ≠ some false := by
  cases ps with
  | nil => simp
  | cons p ps =>
    obtain ⟨hhigh, _⟩ := h p List.mem_cons_self
    obtain ⟨n, hn⟩ := Nat.exists_eq_add_of_le' hhigh
    simp [Pulse.line, hn, List.replicate_succ]

/-- The observer reads back the pulses that were put on the line. -/
theorem pulsesOf_runs_flatMap_line {ps : List Pulse} (h : ∀ p ∈ ps, p.Proper) :
    pulsesOf (runs (ps.flatMap Pulse.line)) = ps := by
  induction ps with
  | nil => rfl
  | cons p ps ih =>
    obtain ⟨⟨hhigh, hlow⟩, hps⟩ := List.forall_mem_cons.mp h
    obtain ⟨n, hn⟩ := Nat.exists_eq_add_of_le' hhigh
    obtain ⟨m, hm⟩ := Nat.exists_eq_add_of_le' hlow
    have hlowRun := runs_replicate_append (head?_flatMap_line hps) m
    have hhighRun := runs_replicate_append (b := true)
      (o := List.replicate (m + 1) false ++ ps.flatMap Pulse.line) (by simp [List.replicate_succ]) n
    rw [List.flatMap_cons, Pulse.line, List.append_assoc, hn, hm, hhighRun, hlowRun, pulsesOf_high_cons,
      ih hps, ← hn, ← hm]

/-- Pulses after a reset gap make up the frames into which their long lows cut them. -/
theorem lineFrames_gap_append_line {c : Config} {g : Nat} {ps : List Pulse} (hg : c.resetMin ≤ g + 1)
    (h : ∀ p ∈ ps, p.Proper) :
    lineFrames c (List.replicate (g + 1) false ++ ps.flatMap Pulse.line) = splitFrames c.resetMin ps := by
  rw [lineFrames, runs_replicate_append (head?_flatMap_line h), pulsesOf_low_cons, pulsesOf_runs_flatMap_line h]
  exact if_pos ((Run.isResetGap_iff _ _).mpr ⟨rfl, hg⟩)

/-- Pulses with short lows between them are one frame, closed when the last low is a reset gap. -/
theorem splitFrames_concat {g : Nat} {ps : List Pulse} (p : Pulse) (h : ∀ q ∈ ps, q.low < g) :
    splitFrames g (ps ++ [p]) = [⟨ps ++ [p], decide (g ≤ p.low)⟩] := by
  induction ps with
  | nil => rfl
  | cons q ps ih =>
    obtain ⟨hq, hps⟩ := List.forall_mem_cons.mp h
    rw [List.cons_append, splitFrames, ih hps, consPulse_of_no_gap _ _ _ _ hq]

end Sys2Proof.Machine
end

section
/-! The frame a SEND puts on the line: its pulses, their exactness, what it is received as (43_line R154, R155). -/

namespace Sys2Proof.Machine

/-- The pulse of a symbol (41_pulse R103). -/
def symbolPulse (c : Config) (x : Sym) : Pulse := ⟨th c x, tl c x⟩

/-- The pulse of a frame's last symbol: its low goes on through the hold and the first `IDLE` cycle (41_pulse R113). -/
def lastPulse (c : Config) (x : Sym) : Pulse := ⟨th c x, tl c x + (c.treset + 1)⟩

/-- The pulses the observer sees of the symbols `xs` and then `x`, the last one. -/
def heldPulses (c : Config) (xs : List Sym) (x : Sym) : List Pulse := xs.map (symbolPulse c) ++ [lastPulse c x]

theorem forall_mem_heldPulses {c : Config} {P : Pulse → Prop} {xs : List Sym} {x : Sym}
    (hsymbol : ∀ y, P (symbolPulse c y)) (hlast : P (lastPulse c x)) : ∀ p ∈ heldPulses c xs x, P p := by
  simp [heldPulses, or_imp, forall_and, hsymbol, hlast]

theorem heldPulses_proper (b : Build) (xs : List Sym) (x : Sym) : ∀ p ∈ heldPulses b.cfg xs x, p.Proper :=
  forall_mem_heldPulses (fun y => ⟨b.th_pos y, b.tl_pos y⟩)
    ⟨b.th_pos x, Nat.le_add_left_of_le (Nat.le_add_left 1 _)⟩

/-- The line of a SEND is one low cycle and then its pulses (41_pulse R111). -/
theorem sendLine_eq_heldPulses {c : Config} {color : Color} {xs : List Sym} {x : Sym} (h : enc color = xs ++ [x]) :
    sendLine c color = false :: (heldPulses c xs x).flatMap Pulse.line := by
  simp [sendLine, framePulses, h, heldPulses, symbolPulse, lastPulse, Pulse.line, List.flatMap_map,
    List.replicate_add]

/-- After a reset gap the observer sees the pulses of a frame as one frame, closed by the hold. -/
theorem lineFrames_gap_append_heldPulses (b : Build) (xs : List Sym) (x : Sym) :
    lineFrames b.cfg (List.replicate (b.cfg.resetMin + 1) false ++ (heldPulses b.cfg xs x).flatMap Pulse.line) =
      [⟨heldPulses b.cfg xs x, true⟩] := by
  have hshort : ∀ q ∈ xs.map (symbolPulse b.cfg), q.low < b.cfg.resetMin :=
    List.forall_mem_map.mpr fun y _ => b.tl_lt_resetMin y
  have hgap : b.cfg.resetMin ≤ (lastPulse b.cfg x).low := by
    have hw3 := b.w3
    simp only [lastPulse]
    omega
  rw [lineFrames_gap_append_line (Nat.le_succ _) (heldPulses_proper b xs x), heldPulses,
    splitFrames_concat _ hshort, decide_eq_true hgap]

theorem pulsesExact_cons_append (c : Config) (p q : Pulse) (ps : List Pulse) :
    pulsesExact c (p :: (ps ++ [q])) =
      (decide (p.high = th c (classify c p.high)) && decide (p.low = tl c (classify c p.high)) &&
        pulsesExact c (ps ++ [q])) := by
  cases ps <;> rfl

theorem pulsesExact_heldPulses (b : Build) (xs : List Sym) (x : Sym) :
    pulsesExact b.cfg (heldPulses b.cfg xs x) = true := by
  induction xs with
  | nil => simp [heldPulses, lastPulse, pulsesExact]
  | cons y ys ih =>
    rw [heldPulses, List.map_cons, List.cons_append, pulsesExact_cons_append, ← heldPulses, ih]
    simp [symbolPulse]

/-- The receiver reads back the symbols sent. -/
theorem map_classify_heldPulses (b : Build) (xs : List Sym) (x : Sym) :
    ((heldPulses b.cfg xs x).map fun p => classify b.cfg p.high) = xs ++ [x] := by
  simp [heldPulses, symbolPulse, lastPulse, Function.comp_def]

/-- A frame of the 24 pulses of a colour is received as that colour (43_line R154). -/
theorem received_of_map_classify_eq_enc {c : Config} {f : LineFrame} {color : Color}
    (h : (f.pulses.map fun p => classify c p.high) = enc color) : f.received c = .color color := by
  have hlength : f.pulses.length = frameBits := by simpa [frameBits] using congrArg List.length h
  rw [LineFrame.received, if_pos hlength, h, symbolsValue_enc, BitVec.ofNat_toNat, BitVec.setWidth_eq]

/-- After a reset gap the line of a SEND is one closed, exact frame of its colour. -/
theorem lineFrames_gap_append_sendLine (b : Build) (color : Color) :
    ∃ f, lineFrames b.cfg (List.replicate b.cfg.resetMin false ++ sendLine b.cfg color) = [f] ∧
      f.closed = true ∧ f.exact b.cfg = true ∧ f.received b.cfg = .color color := by
  have hne : enc color ≠ [] := List.ne_nil_of_length_pos (by simp)
  obtain ⟨xs, x, henc⟩ := (List.eq_nil_or_concat' (enc color)).resolve_left hne
  have hclasses := (map_classify_heldPulses b xs x).trans henc.symm
  have hlength : (heldPulses b.cfg xs x).length = frameBits := by simpa [frameBits] using congrArg List.length hclasses
  refine ⟨⟨heldPulses b.cfg xs x, true⟩, ?frames, rfl, ?exact, received_of_map_classify_eq_enc hclasses⟩
  case frames =>
    rw [sendLine_eq_heldPulses henc, ← lineFrames_gap_append_heldPulses, List.replicate_succ']
    simp
  case exact => simp [LineFrame.exact, hlength, pulsesExact_heldPulses]

end Sys2Proof.Machine
end

section
/-! The reset gap before a ready block (41_pulse R113, 43_line R157): the hold stands on the line before `IDLE`. -/

namespace Sys2Proof.Machine

/-- The cycles of the reset hold that have passed, all of them in `IDLE`. -/
def State.holdPassed (s : State) : Nat :=
  match s.phase with
  | .idle => s.cfg.treset
  | .high => 0
  | .low => 0
  | .rst => s.cfg.treset - s.cnt

theorem State.holdPassed_of_idle {s : State} (hp : s.phase = .idle) : s.holdPassed = s.cfg.treset := by
  simp [State.holdPassed, hp]

theorem State.holdPassed_of_high {s : State} (hp : s.phase = .high) : s.holdPassed = 0 := by
  simp [State.holdPassed, hp]

theorem State.holdPassed_of_low {s : State} (hp : s.phase = .low) : s.holdPassed = 0 := by
  simp [State.holdPassed, hp]

theorem State.holdPassed_of_rst {s : State} (hp : s.phase = .rst) : s.holdPassed = s.cfg.treset - s.cnt := by
  simp [State.holdPassed, hp]

@[simp] theorem State.resetFor_holdPassed (b : Build) (inputs : Inputs) : (State.resetFor b inputs).holdPassed = 0 :=
  Nat.sub_self _

@[simp] theorem State.enter_rst_holdPassed (s : State) : (s.enter .rst s.cfg.treset).holdPassed = 0 := Nat.sub_self _

theorem exec_holdPassed {i : Instr} {s t : State} (h : exec i s = .next t) :
    t.holdPassed = 0 ∨ t.holdPassed = s.holdPassed := by
  rcases exec_cases h with ⟨_, _, rfl⟩ | ⟨_, _, _, _, rfl⟩ | ⟨_, _, rfl⟩ | ⟨_, rfl⟩
  · exact .inr rfl
  · exact .inl rfl
  · exact .inl s.enter_rst_holdPassed
  · exact .inr rfl

theorem stepHigh_holdPassed {s : State} (hp : s.phase = .high) : (stepHigh s).holdPassed = 0 := by
  rcases stepHigh_cases s with ⟨_, h⟩ | ⟨_, h⟩ <;> rw [h]
  · exact State.holdPassed_of_high hp
  · rfl

theorem stepLow_holdPassed {s : State} (hp : s.phase = .low) : (stepLow s).holdPassed = 0 := by
  rcases stepLow_cases s with ⟨_, h⟩ | ⟨_, _, h⟩ | ⟨_, _, h⟩ <;> rw [h]
  · exact State.holdPassed_of_low hp
  · exact s.enter_rst_holdPassed
  · rfl

theorem stepRst_holdPassed {s : State} (hp : s.phase = .rst) : (stepRst s).holdPassed ≤ s.holdPassed + 1 := by
  rw [State.holdPassed_of_rst hp]
  rcases stepRst_cases s with ⟨hc, h⟩ | ⟨hc, h⟩ <;> rw [h]
  · rw [State.holdPassed_of_rst (s := s.countDown) hp, State.countDown_cfg, State.countDown_cnt]
    omega
  · rw [State.holdPassed_of_idle (s.enter_phase _ _), State.enter_cfg]
    omega

/-- A cycle adds to what has passed of a hold only by being low itself; else nothing has passed. -/
theorem step_holdPassed {s t : State} (h : step s = .next t) :
    t.holdPassed = 0 ∨ (s.dout = false ∧ t.holdPassed ≤ s.holdPassed + 1) := by
  rcases step_cases h with
    ⟨_, rfl⟩ | ⟨_, hp, _, rfl⟩ | ⟨_, hp, _, he⟩ | ⟨_, hp, rfl⟩ | ⟨_, hp, rfl⟩ | ⟨_, hp, rfl⟩
  · exact .inl (State.resetFor_holdPassed _ _)
  · exact .inr ⟨by simp [State.dout, hp], Nat.le_succ _⟩
  · exact (exec_holdPassed he).imp_right fun heq => ⟨by simp [State.dout, hp], heq.le.trans (Nat.le_succ _)⟩
  · exact .inl (stepHigh_holdPassed (s := s.nextInput) hp)
  · exact .inl (stepLow_holdPassed (s := s.nextInput) hp)
  · exact .inr ⟨by simp [State.dout, hp], stepRst_holdPassed (s := s.nextInput) hp⟩

/-- The line so far ends with as many low cycles as have passed of the hold. -/
def HoldOnLine (line : List Bool) (s : State) : Prop := List.replicate s.holdPassed false <:+ line

theorem HoldOnLine.of_resetFor (line : List Bool) (b : Build) (inputs : Inputs) :
    HoldOnLine line (State.resetFor b inputs) := by
  rw [HoldOnLine, State.resetFor_holdPassed]
  exact List.nil_suffix

theorem replicate_suffix_replicate {α : Type} (a : α) {m n : Nat} (h : m ≤ n) :
    List.replicate m a <:+ List.replicate n a := by
  simp [List.suffix_replicate_iff, h]

theorem HoldOnLine.of_step {line : List Bool} {s t : State} (hs : HoldOnLine line s) (h : step s = .next t) :
    HoldOnLine (line ++ [s.dout]) t := by
  rw [HoldOnLine]
  rcases step_holdPassed h with hzero | ⟨hlow, hle⟩
  · rw [hzero]
    exact List.nil_suffix
  · rw [hlow]
    have hone : List.replicate (s.holdPassed + 1) false <:+ line ++ [false] := by
      rw [List.replicate_succ']
      exact List.suffix_append_self_iff.mpr hs
    exact (replicate_suffix_replicate false hle).trans hone

theorem HoldOnLine.of_run {n : Nat} {line : List Bool} {s t : State} (hs : HoldOnLine line s) (h : run n s = .next t) :
    HoldOnLine (line ++ lineTrace n s) t := by
  induction n generalizing line s with
  | zero =>
    injection h with h
    subst h
    simpa [lineTrace] using hs
  | succ n ih =>
    obtain ⟨u, hu⟩ := step_next s
    rw [lineTrace_succ_of_step n hu, List.append_cons]
    exact ih (hs.of_step hu) (run_succ_of_step n hu ▸ h)

/-- On the line before a reachable `IDLE` state stands a reset gap (W3 of 41_pulse R102). -/
theorem gap_before_idle {b : Build} {inputs : Inputs} {m : Nat} {s : State}
    (h : run m (State.resetFor b inputs) = .next s) (hp : s.phase = .idle) :
    List.replicate b.cfg.resetMin false <:+ lineTrace m (State.resetFor b inputs) := by
  have hhold := (HoldOnLine.of_resetFor [] b inputs).of_run h
  obtain ⟨hbuild, _⟩ := run_build_inputs h
  have hcfg : s.cfg = b.cfg := congrArg Build.cfg hbuild
  rw [HoldOnLine, State.holdPassed_of_idle hp, hcfg, List.nil_append] at hhold
  exact (replicate_suffix_replicate false b.w3).trans hhold

/-- Settles O44: the gap before an `IDLE` state, and the frame that the line of a SEND shows after a gap. -/
theorem roundTrip : Obligations.RoundTrip := by
  intro b inputs m s hrun hacc hop hr
  obtain ⟨hbuild, _⟩ := run_build_inputs hrun
  have hcfg : s.cfg = b.cfg := congrArg Build.cfg hbuild
  refine ⟨gap_before_idle hrun (s.phase_of_accepts hacc), ?_⟩
  rw [← hcfg] at hr
  obtain ⟨_, hline⟩ := sendWaveform s hacc hop hr
  rw [hcfg] at hline
  rw [hline]
  exact lineFrames_gap_append_sendLine b s.offeredColor

end Sys2Proof.Machine
end

section
/-! The error flag over commands, cycles and a reset (60_exceptions R172). -/

namespace Sys2Proof.Machine

/-- The cycle with `rst = 1` leaves the block in `S_RESET`, where `err` is 0 (70_reset R190). -/
theorem afterCycles_one_err_of_rst {s : State} (h : s.input.rst = true) :
    AfterCycles 1 s fun t => t.err = false :=
  ⟨s.nextInput.toReset, (run_one s).trans (step_of_rst h), s.nextInput.toReset_err⟩

/-- Settles O26: the cycles without reset by induction on their number, a command by what it leaves in `err`, and the
reset by its own cycle. -/
theorem errIsSticky : Obligations.ErrIsSticky := by
  refine ⟨fun n s => afterCycles_err, fun i s t hs h => ?command, fun s => afterCycles_one_err_of_rst⟩
  case command => rw [exec_err h, hs, Bool.true_or]

end Sys2Proof.Machine
end

/-! ## Proofs of the reset family: into the reset hold, through it, and the first command after it (70_reset) -/

section
/-! The cycles with `rst = 1` and the reset hold after them (70_reset R190, R191). -/

namespace Sys2Proof.Machine

/-- As long as its counter runs the reset hold is low and takes no command. -/
theorem resetHold_low_not_ready {k : Nat} {s : State} (hp : s.phase = .rst) (hk : k < s.cnt) (hr : s.NoResetFor k) :
    AfterCycles k s fun t => t.phase = .rst ∧ t.dout = false ∧ t.cmdReady = false := by
  refine ⟨s.elapsed k, run_elapsed (by simp [hp]) hk hr, hp, ?_, ?_⟩
  · simp [State.dout, hp]
  · simp [State.cmdReady, hp]

/-- Settles O19: the cycle with `rst = 1` ends in `S_RESET`, whose counter holds the whole hold. -/
theorem resetEntersHold : Obligations.ResetEntersHold := by
  intro s h
  refine ⟨s.accepts_eq_false_iff.mpr (.inr (.inr h)), s.nextInput.toReset, (run_one s).trans (step_of_rst h), rfl, rfl,
    fun k hk hr => ?hold⟩
  case hold => exact resetHold_low_not_ready s.nextInput.toReset_phase hk hr

theorem Inputs.take_subset_of_le (x : Inputs) {m n : Nat} (h : m ≤ n) : x.take m ⊆ x.take n := by
  obtain ⟨k, rfl⟩ := Nat.exists_eq_add_of_le h
  rw [Inputs.take_add]
  exact List.subset_append_left _ _

theorem State.ResetHeldFor.mono {m n : Nat} {s : State} (h : s.ResetHeldFor n) (hmn : m ≤ n) : s.ResetHeldFor m :=
  fun i hi => h i (s.inputs.take_subset_of_le hmn hi)

/-- However long `rst` is held, its last cycle ends in `S_RESET` (70_reset R191). -/
theorem run_of_resetHeld {n : Nat} {s : State} (h : s.ResetHeldFor (n + 1)) :
    run (n + 1) s = .next (State.resetFor s.build (s.inputs.drop (n + 1))) := by
  induction n generalizing s with
  | zero =>
    obtain ⟨hrst, _⟩ := (s.resetHeldFor_succ 0).mp h
    exact (run_one s).trans (step_of_rst hrst)
  | succ n ih =>
    obtain ⟨hrst, hrest⟩ := (s.resetHeldFor_succ (n + 1)).mp h
    rw [run_succ_of_step (n + 1) (step_of_rst hrst)]
    exact ih (s := s.nextInput.toReset) hrest

/-- Settles O20: the run of the first `k + 1` of the cycles with `rst = 1`. -/
theorem resetHeldStaysReset : Obligations.ResetHeldStaysReset := fun _ _ h _ hk =>
  ⟨_, run_of_resetHeld (h.mono (Nat.succ_le_succ hk)), rfl, rfl⟩

end Sys2Proof.Machine
end

section
/-! The ready block after the hold, and what ends its readiness (70_reset R193). -/

namespace Sys2Proof.Machine

/-- From `S_RESET` the hold is over after `TRESET_CYC` cycles (10_state R36). -/
theorem run_toReset {s : State} (hr : s.NoResetFor s.cfg.treset) :
    run s.cfg.treset s.toReset = .next s.toReset.nextSegment :=
  run_nextSegment (s := s.toReset) (by simp) s.build.treset_pos hr

/-- Without reset an idle block is left only through the acceptance of a SEND or a HOLD. -/
theorem afterCycles_one_idle_of_no_send_hold {s : State} (hp : s.phase = .idle) (hr : s.input.rst = false)
    (h : ¬(s.accepts = true ∧ (s.offeredOp = 0x01 ∨ s.offeredOp = 0x02))) : AfterCycles 1 s fun t => t.phase = .idle := by
  cases hv : s.input.cmdValid
  case false => exact ⟨_, (run_one s).trans (step_of_not_valid hp hr hv), hp⟩
  case true =>
    have hacc : s.accepts = true := s.accepts_iff.mpr ⟨hv, hr, hp⟩
    have hop : ¬(s.offeredOp = 0x01 ∨ s.offeredOp = 0x02) := fun hop => h ⟨hacc, hop⟩
    exact afterCycles_one_idle_of_accepts hacc (by omega)

/-- An idle block stays idle as long as there is no reset and no SEND or HOLD is accepted. -/
theorem afterCycles_idle_of_no_send_hold {n : Nat} {s : State} (hp : s.phase = .idle) (hr : s.NoResetFor n)
    (h : ∀ k, k < n → ∀ t, run k s = .next t → ¬(t.accepts = true ∧ (t.offeredOp = 0x01 ∨ t.offeredOp = 0x02))) :
    AfterCycles n s fun t => t.phase = .idle := by
  induction n with
  | zero => exact ⟨s, rfl, hp⟩
  | succ n ih =>
    obtain ⟨t, ht, hidle⟩ := ih (hr.mono n.le_succ) fun k hk => h k (by omega)
    obtain ⟨_, hlast⟩ := (State.noResetFor_add_iff 1 ht).mp hr
    obtain ⟨hrst, _⟩ := (t.noResetFor_succ 0).mp hlast
    rw [AfterCycles, run_add 1 ht]
    exact afterCycles_one_idle_of_no_send_hold hidle hrst (h n n.lt_succ_self t ht)

/-- Settles O21: the hold from `S_RESET` on, the SEND accepted after it, and the idle block that accepts none. -/
theorem firstReadyAfterReset : Obligations.FirstReadyAfterReset := by
  intro s h hr
  have hhold := run_toReset hr
  have hready := (run_succ_of_step s.cfg.treset (step_of_rst h)).trans hhold
  have hidle : s.nextInput.toReset.nextSegment.phase = .idle := State.nextSegment_of_rst rfl
  refine ⟨fun k h1 hk => ?hold, ⟨_, hready, ?ready, ?low, fun hacc hop => ?send⟩, fun n hrn hno => ?idle⟩
  case hold =>
    obtain ⟨j, rfl⟩ := Nat.exists_eq_add_of_le' h1
    rw [afterCycles_succ_iff_of_step j _ (step_of_rst h)]
    exact (resetHold_low_not_ready s.nextInput.toReset_phase hk (hr.mono (Nat.le_of_succ_le hk))).imp
      fun _ ⟨_, hlow, hunready⟩ => ⟨hunready, hlow⟩
  case ready => exact (State.cmdReady_iff _).mpr hidle
  case low => simp [State.dout, hidle]
  case send => exact ⟨_, (run_one _).trans (step_of_accepts_send hacc hop), rfl⟩
  case idle =>
    obtain ⟨_, hrest⟩ := (State.noResetFor_add_iff n hhold).mp hrn
    rw [AfterCycles, run_add n hready]
    exact (afterCycles_idle_of_no_send_hold hidle hrest fun k hk t ht =>
      hno k hk t ((run_add k hready).trans ht)).imp fun t ht => t.cmdReady_iff.mpr ht

end Sys2Proof.Machine
end

/-! ## Proofs of the remaining family: the decoder's inverse, what every step keeps, completion, the line of a run -/

section
/-! Decoder and encoder are inverse to each other, and the rows of the opcode table share no word (30_encoding R71
to R73). -/

namespace Sys2Proof

/-- Settles O1: each word evaluated by the decoder. -/
theorem sampleWordsDecode : Obligations.SampleWordsDecode := by
  unfold Obligations.SampleWordsDecode
  decide

/-- Settles O2, through `decode_encode`. -/
theorem decodeOfEncode : Obligations.DecodeOfEncode := fun _ => decode_encode

/-- A word is its opcode in front of its low bits. -/
theorem cmdWord_opField_lowField (w : Word) : cmdWord (opField w) (lowField w) = w := by
  have hwhole : opField w ++ lowField w = w.extractLsb' 0 32 := BitVec.extractLsb'_append_extractLsb'_eq_extractLsb' rfl
  rw [cmdWord, hwhole, BitVec.extractLsb'_eq_self]

theorem encode_decode (w : Word) : encode (decode w) = w := by
  conv_rhs => rw [← cmdWord_opField_lowField w]
  unfold decode
  split
  case isTrue h => rw [encode, h]
  split
  case isTrue h => rw [encode, channelFields_append, h]
  split
  case isTrue h => rw [encode, h]
  repeat' split
  all_goals rfl

/-- A decoded command is well-formed: in a reserved row the tests that failed before give the lower bound of the opcode,
the row's own test the upper one. -/
theorem decode_wf (w : Word) : (decode w).wf = true := by
  have := (opField w).isLt
  unfold decode
  repeat' split
  all_goals simp only [Instr.wf, opWithin_iff]
  all_goals bv_omega

/-- Settles O3, by the tests of the decoder. -/
theorem encodeOfDecode : Obligations.EncodeOfDecode := fun w => ⟨decode_wf w, encode_decode w⟩

/-- The word of a well-formed command matches the row of the command. -/
theorem encode_matches_row {i : Instr} (h : i.wf = true) :
    ∃ row, opcodeRows[i.row.val]? = some row ∧ row.matchesWord (encode i) = true := by
  open Laws.EncodingInRow in
  cases i
  case nop sbz => exact nop sbz h
  case send g r b => exact send g r b h
  case hold sbz => exact hold sbz h
  case reserved03 op ignored => exact reserved03 op ignored h
  case reserved04 op ignored => exact reserved04 op ignored h
  case reserved08 op ignored => exact reserved08 op ignored h
  case reserved10 op ignored => exact reserved10 op ignored h
  case reserved20 op ignored => exact reserved20 op ignored h
  case reserved40 op ignored => exact reserved40 op ignored h
  case reserved80 op ignored => exact reserved80 op ignored h

/-- The patterns of two rows differ in a bit that both masks cover. -/
theorem opcodeRows_disjoint :
    ∀ j k : Fin 10,
      opcodeRows[j].pattern &&& opcodeRows[k].mask = opcodeRows[k].pattern &&& opcodeRows[j].mask → j = k := by
  decide

theorem opcodeRow_matchesWord_iff (row : OpcodeRow) (w : Word) :
    row.matchesWord w = true ↔ w &&& row.mask = row.pattern := by
  simp [OpcodeRow.matchesWord]

/-- No word belongs to two rows. -/
theorem row_unique_of_matchesWord {w : Word} {j k : Fin 10} (hj : opcodeRows[j].matchesWord w = true)
    (hk : opcodeRows[k].matchesWord w = true) : j = k := by
  rw [opcodeRow_matchesWord_iff] at hj hk
  apply opcodeRows_disjoint
  rw [← hj, ← hk, BitVec.and_assoc, BitVec.and_assoc, BitVec.and_comm opcodeRows[j].mask]

/-- Settles O5: a word is that of its decoded command, which matches its row, and no other row matches. -/
theorem opcodeRowsPartition : Obligations.OpcodeRowsPartition := by
  intro w k
  have hrow := encode_matches_row (decode_wf w)
  rw [encode_decode] at hrow
  refine ⟨fun ⟨row, hget, hmatch⟩ => ?_, fun hk => hk ▸ hrow⟩
  obtain ⟨row', hget', hmatch'⟩ := hrow
  obtain ⟨_, rfl⟩ := List.getElem?_eq_some_iff.mp hget
  obtain ⟨_, rfl⟩ := List.getElem?_eq_some_iff.mp hget'
  exact row_unique_of_matchesWord hmatch hmatch'

end Sys2Proof
end

section
/-! What a command does, on any state and at its accepting edge, in plain fields (42_commands R132 to R135). -/

namespace Sys2Proof.Machine

/-- A number below `2^k` shares no bit with a multiple of `2^k`. -/
theorem mul_two_pow_or_eq_add {y k : Nat} (x : Nat) (hy : y < 2 ^ k) : x * 2 ^ k ||| y = x * 2 ^ k + y := by
  rw [Nat.mul_comm, Nat.two_pow_add_eq_or_of_lt hy]

/-- A string of bits in front of another, as a number. -/
theorem append_toNat {m n : Nat} (x : BitVec m) (y : BitVec n) : (x ++ y).toNat = x.toNat * 2 ^ n + y.toNat := by
  rw [BitVec.toNat_append, Nat.shiftLeft_eq, mul_two_pow_or_eq_add _ y.isLt]

theorem colorOf_toNat (g r b : Byte) :
    (colorOf g r b).toNat = g.toNat * 2 ^ 16 + r.toNat * 2 ^ 8 + b.toNat := by
  rw [colorOf, append_toNat, append_toNat]
  omega

theorem colorOf_eq_ofNat (g r b : Byte) :
    colorOf g r b = BitVec.ofNat 24 (g.toNat * 2 ^ 16 + r.toNat * 2 ^ 8 + b.toNat) := by
  rw [← colorOf_toNat, BitVec.ofNat_toNat, BitVec.setWidth_eq]

/-- Symbol 0 is the most significant bit of the colour (40_bit_encoder R92). -/
theorem sym_zero (c : Color) : sym c 0 = c.getLsbD 23 := sym_of_le c 0 (Nat.zero_le _)

/-- Symbol 0 is the most significant bit of Green (40_bit_encoder R92). -/
theorem sym_colorOf_zero (g r b : Byte) : sym (colorOf g r b) 0 = g.getLsbD 7 := by
  conv_rhs => rw [← greenOf_colorOf g r b]
  rw [sym_zero, greenOf, BitVec.getLsbD_extractLsb']
  rfl

/-- Settles O7: the equations of `exec` and of the accepting cycle, with symbol 0 as the bit it is. -/
theorem sendStartsFirstSymbol : Obligations.SendStartsFirstSymbol := by
  refine ⟨fun g r b s => ?exec, fun s h hop => ?port⟩
  case exec =>
    rw [← colorOf_eq_ofNat, ← sym_colorOf_zero g r b]
    rfl
  case port =>
    rw [step_of_accepts_send h hop, ← sym_zero]
    rfl

/-- Settles O8: the equations of `exec` and of the accepting cycle. -/
theorem holdStartsResetHold : Obligations.HoldStartsResetHold :=
  ⟨fun _ _ => rfl, fun _ => step_of_accepts_hold⟩

/-- Settles O10: what each command can do, with the fields it does not write. -/
theorem commandFrames : Obligations.CommandFrames := by
  intro i s t h
  rcases exec_cases h with ⟨_, rfl, rfl⟩ | ⟨_, _, _, rfl, rfl⟩ | ⟨_, rfl, rfl⟩ | ⟨⟨op, hop⟩, rfl⟩
  case inl => simp
  case inr.inl => simp [Instr.sendColor?, Instr.reservedOp?]
  case inr.inr.inl => simp [Instr.reservedOp?]
  case inr.inr.inr =>
    have hnop : ∀ sbz, i ≠ .nop sbz := by
      rintro sbz rfl
      exact nomatch hop
    simp [hop, hnop]

theorem decodeTableWord_of_lt {w : Nat} (h : w < 2 ^ 32) :
    decodeTableWord 32 w = some (decode (BitVec.ofNat 32 w)) := by
  rw [decodeTableWord, decodeBits, if_neg (by decide), if_neg (Nat.not_le.mpr h)]

/-- The cycle after `offerWord` executes the word offered. -/
theorem step_offerWord (s : State) (w : Word) :
    step (s.offerWord w) = exec (decode w) { s with phase := .idle, cnt := 0, inputs := s.inputs.tail } :=
  step_of_accepts rfl

/-- Settles O12: `withFetchWord` offers the word that the table's decoder reads. -/
theorem fetchedWordRuns : Obligations.FetchedWordRuns := by
  intro s w h
  refine ⟨_, decodeTableWord_of_lt h, ?_⟩
  rw [State.withFetchWord, Nat.mod_eq_of_lt h, step_offerWord]

theorem status_getLsbD (s : State) (width i : Nat) :
    (s.status width).getLsbD i = (decide (i < width) && ((i == 0 && s.busy) || (i == 1 && s.err))) := by
  rw [State.status, BitVec.getLsbD_setWidth, BitVec.getLsbD_append]
  match i with
  | 0 => simp
  | 1 => simp
  | i + 2 => simp

theorem State.busy_eq_decide (s : State) : s.busy = decide (s.phase ≠ .idle) := by
  rw [State.busy, bne, beq_eq_decide, decide_not]

/-- Settles O18: the outputs by their definitions, the status word bit by bit. -/
theorem outputsFollowState : Obligations.OutputsFollowState := fun s =>
  ⟨by rw [State.out, State.cmdReady, State.dout, s.busy_eq_decide, beq_eq_decide, beq_eq_decide], status_getLsbD s⟩

end Sys2Proof.Machine
end

section
/-! What every step keeps: the invariant, the width of the counter, the colour, the build (10_state R21 to R35). -/

namespace Sys2Proof

theorem Config.treset_le_maxCount (c : Config) : c.treset ≤ c.maxCount := by
  obtain ⟨_, _, _, _, h⟩ := c.le_maxCount
  exact h

end Sys2Proof

namespace Sys2Proof.Machine

/-- Settles O22, through `step_keeps_inv`. -/
theorem stepKeepsInv : Obligations.StepKeepsInv := fun _ _ => step_keeps_inv

/-- Settles O23: `State.reset` is `S_RESET` of one build. -/
theorem resetStateHasInv : Obligations.ResetStateHasInv := ⟨State.resetFor_inv _ _, State.resetFor_inv⟩

/-- Settles O29, through `run_build_inputs`. -/
theorem buildIsFixed : Obligations.BuildIsFixed := fun _ _ _ => run_build_inputs

theorem run_next (n : Nat) (s : State) : ∃ t, run n s = .next t := by
  induction n generalizing s with
  | zero => exact ⟨s, rfl⟩
  | succ n ih =>
    obtain ⟨t, ht⟩ := step_next s
    rw [run_succ_of_step n ht]
    exact ih t

/-- Settles O30: no cycle stops the block. -/
theorem neverStops : Obligations.NeverStops := run_next

@[simp] theorem State.nextInput_cntFits (s : State) : s.nextInput.cntFits = s.cntFits := rfl
@[simp] theorem State.setErr_cntFits (s : State) : s.setErr.cntFits = s.cntFits := rfl

theorem State.countDown_cntFits {s : State} (hs : s.cntFits = true) : s.countDown.cntFits = true := by
  rw [State.cntFits_iff] at hs ⊢
  exact lt_of_le_of_lt (Nat.sub_le _ _) hs

/-- Every count of the configuration fits the counter (W5 of 41_pulse R102). -/
theorem State.enter_cntFits {s : State} {n : Nat} (p : Phase) (hn : n ≤ s.cfg.maxCount) :
    (s.enter p n).cntFits = true :=
  (State.cntFits_iff _).mpr (hn.trans_lt s.build.w5)

theorem State.resetFor_cntFits (b : Build) (inputs : Inputs) : (State.resetFor b inputs).cntFits = true :=
  State.enter_cntFits (s := State.resetFor b inputs) .rst b.cfg.treset_le_maxCount

theorem State.powerUp_cntFits (b : Build) (inputs : Inputs) : (State.powerUp b inputs).cntFits = true :=
  (State.cntFits_iff _).mpr (Nat.mod_lt _ (Nat.two_pow_pos _))

theorem State.endSegment_cntFits {s : State} (hs : s.cntFits = true) : s.endSegment.cntFits = true := by
  unfold State.endSegment
  split
  case h_1 => exact hs
  case h_2 => exact State.enter_cntFits .low (s.cfg.tl_le_maxCount _)
  case h_3 =>
    split
    · exact State.enter_cntFits .rst s.cfg.treset_le_maxCount
    · exact State.enter_cntFits (s := s.nextSymbol) .high (s.cfg.th_le_maxCount _)
  case h_4 => exact State.enter_cntFits .idle (Nat.zero_le _)

theorem exec_cntFits {i : Instr} {s t : State} (hs : s.cntFits = true) (h : exec i s = .next t) : t.cntFits = true := by
  rcases exec_cases h with ⟨_, _, rfl⟩ | ⟨g, r, b, _, rfl⟩ | ⟨_, _, rfl⟩ | ⟨_, rfl⟩
  · exact hs
  · exact State.enter_cntFits (s := s.loadColor (colorOf g r b)) .high (s.cfg.th_le_maxCount _)
  · exact State.enter_cntFits .rst s.cfg.treset_le_maxCount
  · rwa [State.setErr_cntFits]

/-- Everything a cycle can do, with the three busy phases as one: the counter runs, or the segment ends. -/
theorem step_cases_busy {s t : State} (h : step s = .next t) :
    (s.input.rst = true ∧ t = s.nextInput.toReset) ∨
    (s.input.rst = false ∧ s.phase = .idle ∧ s.accepts = false ∧ t = s.nextInput) ∨
    (s.accepts = true ∧ exec (decode s.input.cmdWord) s.nextInput = .next t) ∨
    (s.input.rst = false ∧ s.phase ≠ .idle ∧ 1 < s.cnt ∧ t = s.nextInput.countDown) ∨
    (s.input.rst = false ∧ s.phase ≠ .idle ∧ s.cnt ≤ 1 ∧ t = s.nextInput.endSegment) := by
  cases hr : s.input.rst
  case true =>
    rw [step_of_rst hr] at h
    injection h with h
    exact .inl ⟨rfl, h.symm⟩
  case false =>
    refine .inr ?_
    by_cases hp : s.phase = .idle
    · cases hacc : s.accepts
      case false =>
        have hv : s.input.cmdValid = false := by simpa [hr, hp] using s.accepts_eq_false_iff.mp hacc
        rw [step_of_not_valid hp hr hv] at h
        injection h with h
        exact .inl ⟨rfl, hp, rfl, h.symm⟩
      case true => exact .inr (.inl ⟨rfl, step_of_accepts hacc ▸ h⟩)
    · rw [step_of_busy hr hp] at h
      injection h with h
      split at h
      case isTrue hc => exact .inr (.inr (.inl ⟨rfl, hp, hc, h.symm⟩))
      case isFalse hc => exact .inr (.inr (.inr ⟨rfl, hp, Nat.not_lt.mp hc, h.symm⟩))

theorem step_cntFits {s t : State} (hs : s.cntFits = true) (h : step s = .next t) : t.cntFits = true := by
  have hn : s.nextInput.cntFits = true := by rwa [State.nextInput_cntFits]
  rcases step_cases_busy h with ⟨_, rfl⟩ | ⟨_, _, _, rfl⟩ | ⟨_, he⟩ | ⟨_, _, _, rfl⟩ | ⟨_, _, _, rfl⟩
  · exact State.resetFor_cntFits _ _
  · exact hn
  · exact exec_cntFits hn he
  · exact State.countDown_cntFits hn
  · exact State.endSegment_cntFits hn

/-- Settles O25: the two start states, and the step. -/
theorem counterFitsItsWidth : Obligations.CounterFitsItsWidth :=
  ⟨fun b inputs => ⟨State.resetFor_cntFits b inputs, State.powerUp_cntFits b inputs⟩, fun _ _ => step_cntFits⟩

end Sys2Proof.Machine
end

section
/-! Which cycles change the colour and the symbol index (20_memory R60, 42_commands R133). -/

namespace Sys2Proof

/-- SEND is the one command with a colour, bits 23:0 of its word (30_encoding R73, R74). -/
theorem sendColor?_decode (w : Word) :
    (decode w).sendColor? = if opField w = 0x01 then some (lowField w) else none := by
  by_cases hop : opField w = 0x01
  · rw [decode_send hop, if_pos hop, ← channelFields_append]
    rfl
  · rw [decode, if_neg hop, if_neg hop]
    simp only [apply_ite Instr.sendColor?]
    simp only [Instr.sendColor?, ite_self]

end Sys2Proof

namespace Sys2Proof.Machine

theorem State.opField_eq_send_iff (s : State) : opField s.input.cmdWord = 0x01 ↔ s.offeredOp = 0x01 := by
  rw [← BitVec.toNat_inj, opField_toNat]
  rfl

/-- The colour of the command on the port, if it is a SEND. -/
theorem State.sendColor?_input (s : State) :
    (decode s.input.cmdWord).sendColor? = if s.offeredOp = 0x01 then some s.offeredColor else none := by
  rw [sendColor?_decode, lowField_eq_ofNat]
  simp only [s.opField_eq_send_iff, State.offeredColor]

theorem exec_frame_bitidx {i : Instr} {s t : State} (h : exec i s = .next t) (hi : i.sendColor? = none) :
    t.frame = s.frame ∧ t.bitidx = s.bitidx := by
  obtain ⟨_, _, hcolor, _⟩ := commandFrames i s t h
  exact hcolor hi

@[simp] theorem State.endSegment_frame (s : State) : s.endSegment.frame = s.frame := by
  unfold State.endSegment
  split
  case h_3 => split <;> rfl
  all_goals rfl

theorem State.endSegment_bitidx {s : State} (hp : s.phase ≠ .low) : s.endSegment.bitidx = s.bitidx := by
  unfold State.endSegment
  split
  case h_3 h => exact absurd h hp
  all_goals rfl

/-- Without reset and without an accepted SEND a cycle keeps the colour, and keeps the symbol index unless it is the last
one of a low segment. -/
theorem step_keeps_color {s t : State} (h : step s = .next t) (hr : s.input.rst = false)
    (hsend : ¬(s.accepts = true ∧ s.offeredOp = 0x01)) :
    t.frame = s.frame ∧ (¬(s.phase = .low ∧ s.cnt ≤ 1) → t.bitidx = s.bitidx) := by
  rcases step_cases_busy h with ⟨hr', _⟩ | ⟨_, _, _, rfl⟩ | ⟨hacc, he⟩ | ⟨_, _, _, rfl⟩ | ⟨_, _, hc, rfl⟩
  · simp [hr] at hr'
  · exact ⟨rfl, fun _ => rfl⟩
  · have hop : s.offeredOp ≠ 0x01 := fun hop => hsend ⟨hacc, hop⟩
    obtain ⟨hframe, hbit⟩ := exec_frame_bitidx he (by rw [s.sendColor?_input, if_neg hop])
    exact ⟨hframe, fun _ => hbit⟩
  · exact ⟨rfl, fun _ => rfl⟩
  · exact ⟨s.nextInput.endSegment_frame, fun hlow => State.endSegment_bitidx (s := s.nextInput) fun hp => hlow ⟨hp, hc⟩⟩

/-- Settles O28: the reset, the accepting cycle of a SEND, and every other cycle. -/
theorem colorChangesOnlyAtSend : Obligations.ColorChangesOnlyAtSend := by
  intro s t h
  refine ⟨?_, fun hr hsend hlow => (step_keeps_color h hr hsend).2 hlow⟩
  split
  case isTrue hr =>
    rw [step_of_rst hr] at h
    injection h with h
    rw [← h, State.toReset_frame]
  case isFalse hr =>
    split
    case isTrue hsend =>
      rw [step_of_accepts_send hsend.1 hsend.2] at h
      injection h with h
      rw [← h, State.enter_frame, State.loadColor_frame]
    case isFalse hsend => exact (step_keeps_color h (Bool.eq_false_iff.mpr hr) hsend).1

end Sys2Proof.Machine
end

section
/-! The derived counts, the assembled words and the host's offer (41_pulse R101, 30_encoding R79 to R81). -/

namespace Sys2Proof.Machine

/-- Settles O46: the counts by their definitions, the refusal by its test. -/
theorem derivedCounts : Obligations.DerivedCounts := by
  intro f tresetNs w
  refine ⟨rfl, rfl, rfl, rfl, fun h => ?refused, fun h => ?derived⟩
  case refused => exact if_neg (Nat.not_le.mpr h)
  case derived => exact if_pos h

theorem assemble_sendLiteral {v : Nat} (h : v ≤ 0xFFFFFF) :
    ∃ w, (AsmCommand.sendLiteral v).assemble = some w ∧ w.toNat = 2 ^ 24 + v := by
  refine ⟨_, if_pos h, ?_⟩
  have hv : v < 2 ^ 24 := by omega
  rw [BitVec.toNat_or, BitVec.toNat_ofNat, Nat.mod_eq_of_lt (by omega)]
  exact mul_two_pow_or_eq_add 1 hv

/-- The channel form of a SEND: the channels lie beside each other in the word (30_encoding R79). -/
theorem assemble_send {g r b : Nat} (hg : g ≤ 255) (hr : r ≤ 255) (hb : b ≤ 255) :
    ∃ w, (AsmCommand.send g r b).assemble = some w ∧ w.toNat = 2 ^ 24 + g * 2 ^ 16 + r * 2 ^ 8 + b := by
  refine ⟨_, if_pos ⟨hg, hr, hb⟩, ?_⟩
  have hgreen : (BitVec.ofNat 32 g <<< 16).toNat = g * 2 ^ 16 := by
    rw [BitVec.toNat_shiftLeft, BitVec.toNat_ofNat, Nat.shiftLeft_eq]
    omega
  have hred : (BitVec.ofNat 32 r <<< 8).toNat = r * 2 ^ 8 := by
    rw [BitVec.toNat_shiftLeft, BitVec.toNat_ofNat, Nat.shiftLeft_eq]
    omega
  have hblue : (BitVec.ofNat 32 b).toNat = b := by
    rw [BitVec.toNat_ofNat]
    omega
  have hop : ((0x01 <<< 24 : Nat) : Word).toNat = 1 * 2 ^ 24 := rfl
  rw [BitVec.toNat_or, BitVec.toNat_or, BitVec.toNat_or, hop, hgreen, hred, hblue]
  rw [mul_two_pow_or_eq_add 1 (by omega)]
  rw [show 1 * 2 ^ 24 + g * 2 ^ 16 = (2 ^ 8 + g) * 2 ^ 16 by omega, mul_two_pow_or_eq_add _ (by omega)]
  rw [show (2 ^ 8 + g) * 2 ^ 16 + r * 2 ^ 8 = ((2 ^ 8 + g) * 2 ^ 8 + r) * 2 ^ 8 by omega,
    mul_two_pow_or_eq_add _ (by omega)]
  omega

theorem ofNat_eq_of_mod_eq {n a b : Nat} (h : a % 2 ^ n = b % 2 ^ n) : BitVec.ofNat n a = BitVec.ofNat n b :=
  BitVec.eq_of_toNat_eq (by rwa [BitVec.toNat_ofNat, BitVec.toNat_ofNat])

/-- A word whose number is that of a SEND decodes to it (30_encoding R73, R74). -/
theorem decode_of_toNat_send {w : Word} {g r b : Nat} (hg : g ≤ 255) (hr : r ≤ 255) (hb : b ≤ 255)
    (hw : w.toNat = 2 ^ 24 + g * 2 ^ 16 + r * 2 ^ 8 + b) :
    decode w = .send (BitVec.ofNat 8 g) (BitVec.ofNat 8 r) (BitVec.ofNat 8 b) := by
  have hop : opField w = 0x01 := opField_eq_of_toNat (show w.toNat / 2 ^ 24 = 1 by omega)
  have hgreen : BitVec.ofNat 8 (w.toNat / 2 ^ 16) = BitVec.ofNat 8 g := ofNat_eq_of_mod_eq (by omega)
  have hred : BitVec.ofNat 8 (w.toNat / 2 ^ 8) = BitVec.ofNat 8 r := ofNat_eq_of_mod_eq (by omega)
  have hblue : BitVec.ofNat 8 w.toNat = BitVec.ofNat 8 b := ofNat_eq_of_mod_eq (by omega)
  rw [decode_send hop, gField_eq_ofNat, rField_eq_ofNat, bField_eq_ofNat, hgreen, hred, hblue]

/-- Settles O49: the two forms of SEND with their refusals; the other lines by evaluation. -/
theorem assembledWords : Obligations.AssembledWords := by
  refine ⟨fun g r b hg hr hb => ?send, fun g r b h => ?refused, fun v => assemble_sendLiteral, fun v h => ?literalRefused,
    fun w => ?word, fun r g b => rfl, rfl, rfl, rfl⟩
  case send =>
    obtain ⟨w, hasm, hw⟩ := assemble_send hg hr hb
    exact ⟨w, hasm, hw, decode_of_toNat_send hg hr hb hw⟩
  case refused => exact if_neg (by omega)
  case literalRefused => exact if_neg (Nat.not_le.mpr h)
  case word =>
    refine (if_pos w.isLt).trans ?_
    rw [BitVec.ofNat_toNat, BitVec.setWidth_eq]

theorem HostState.todo_of_offered {h : HostState} {w : Word} (hoff : h.offered = some w) :
    ∃ rest, h.todo = .offer w :: rest := by
  unfold HostState.offered at hoff
  split at hoff
  case h_1 rest htodo =>
    injection hoff with hw
    exact ⟨rest, hw ▸ htodo⟩
  case h_2 => exact nomatch hoff

theorem HostState.drive_of_offered {h : HostState} {w : Word} (hoff : h.offered = some w) :
    h.drive.cmdValid = true ∧ h.drive.cmdWord = w := by
  simp [HostState.drive, hoff]

theorem HostState.advance_of_not_accepted {h : HostState} {w : Word} (hoff : h.offered = some w) :
    (h.advance false).offered = some w := by
  obtain ⟨rest, htodo⟩ := HostState.todo_of_offered hoff
  simp [HostState.offered, HostState.advance, htodo, settle]

theorem HostState.advance_of_accepted {h : HostState} {w : Word} (hoff : h.offered = some w) :
    (h.advance true).todo = settle (h.todo.drop 1) := by
  obtain ⟨rest, htodo⟩ := HostState.todo_of_offered hoff
  simp [HostState.advance, htodo]

/-- Settles O50: what the host drives and what it does next, after a cycle that accepts and after one that does not. -/
theorem hostHoldsOffer : Obligations.HostHoldsOffer := by
  intro h w hoff
  obtain ⟨hvalid, hword⟩ := HostState.drive_of_offered hoff
  refine ⟨hvalid, hword, fun s hacc => ?held, fun s hacc => ?next⟩
  case held =>
    have hheld : (closedStep h s).1.offered = some w := by
      rw [closedStep, hacc]
      exact HostState.advance_of_not_accepted hoff
    exact ⟨hheld, (HostState.drive_of_offered hheld).2⟩
  case next =>
    rw [closedStep, hacc]
    exact HostState.advance_of_accepted hoff

end Sys2Proof.Machine
end

section
/-! How long a busy block stays busy, from any value of its registers (41_pulse R116, 20_memory R60). -/

namespace Sys2Proof.Machine

/-- The cycles of the symbols of a colour from symbol `k` on (41_pulse R111). -/
def cyclesFrom (c : Config) (color : Color) (k : Nat) : Nat := (((enc color).drop k).map (pairCycles c)).sum

theorem cyclesFrom_of_ge (c : Config) (color : Color) {k : Nat} (hk : 24 ≤ k) : cyclesFrom c color k = 0 := by
  rw [cyclesFrom, List.drop_eq_nil_of_le (by rwa [enc_length])]
  rfl

theorem cyclesFrom_of_lt (c : Config) (color : Color) {k : Nat} (hk : k < 24) :
    cyclesFrom c color k = pairCycles c (sym color (BitVec.ofNat 5 k)) + cyclesFrom c color (k + 1) := by
  obtain ⟨hlt, hget⟩ := List.getElem?_eq_some_iff.mp (enc_getElem? color hk)
  rw [cyclesFrom, List.drop_eq_getElem_cons hlt, hget, ← sym_ofNat color hk]
  rfl

theorem th_add_tl_le_pairMax (c : Config) (x : Sym) : th c x + tl c x ≤ pairMax c := by
  cases x
  · exact le_max_left _ _
  · exact le_max_right _ _

theorem cyclesFrom_le (c : Config) (color : Color) (k : Nat) : cyclesFrom c color k ≤ (24 - k) * pairMax c := by
  have hsum := List.sum_le_card_nsmul (((enc color).drop k).map (pairCycles c)) (pairMax c)
    (List.forall_mem_map.mpr fun x _ => th_add_tl_le_pairMax c x)
  rwa [List.length_map, List.length_drop, enc_length, smul_eq_mul] at hsum

/-- The cycles the block stays busy after the current segment, without reset. -/
def State.laterCycles (s : State) : Nat :=
  match s.phase with
  | .idle => 0
  | .high => tl s.cfg s.symbol + cyclesFrom s.cfg s.frame (s.bitidx.toNat + 1) + s.cfg.treset
  | .low => cyclesFrom s.cfg s.frame (s.bitidx.toNat + 1) + s.cfg.treset
  | .rst => 0

theorem State.laterCycles_of_high {s : State} (hp : s.phase = .high) :
    s.laterCycles = tl s.cfg s.symbol + cyclesFrom s.cfg s.frame (s.bitidx.toNat + 1) + s.cfg.treset := by
  simp [State.laterCycles, hp]

theorem State.laterCycles_of_low {s : State} (hp : s.phase = .low) :
    s.laterCycles = cyclesFrom s.cfg s.frame (s.bitidx.toNat + 1) + s.cfg.treset := by
  simp [State.laterCycles, hp]

theorem State.laterCycles_of_rst {s : State} (hp : s.phase = .rst) : s.laterCycles = 0 := by
  simp [State.laterCycles, hp]

/-- The cycles until `IDLE`, without reset; a counter of 0 lasts a cycle, as one of 1 does (41_pulse R116). -/
def State.busyLeft (s : State) : Nat := if s.phase = .idle then 0 else max s.cnt 1 + s.laterCycles

theorem State.busyLeft_of_idle {s : State} (hp : s.phase = .idle) : s.busyLeft = 0 := if_pos hp

theorem State.busyLeft_of_busy {s : State} (hp : s.phase ≠ .idle) : s.busyLeft = max s.cnt 1 + s.laterCycles := if_neg hp

theorem State.busyLeft_eq_zero_iff (s : State) : s.busyLeft = 0 ↔ s.phase = .idle := by
  refine ⟨fun h => ?_, State.busyLeft_of_idle⟩
  by_contra hp
  rw [State.busyLeft_of_busy hp] at h
  omega

theorem State.enter_low_busyLeft (s : State) :
    (s.enter .low (tl s.cfg s.symbol)).busyLeft =
      tl s.cfg s.symbol + cyclesFrom s.cfg s.frame (s.bitidx.toNat + 1) + s.cfg.treset := by
  have hpos : 1 ≤ tl s.cfg s.symbol := s.build.tl_pos _
  rw [State.busyLeft_of_busy (by simp), State.laterCycles_of_low (s.enter_phase _ _), State.enter_cnt,
    Nat.max_eq_left hpos, Nat.add_assoc]
  rfl

/-- At the start of a symbol it and the symbols after it are left, and the hold. -/
theorem State.enter_high_busyLeft {s : State} (hk : s.bitidx.toNat ≤ 23) :
    (s.enter .high (th s.cfg s.symbol)).busyLeft = cyclesFrom s.cfg s.frame s.bitidx.toNat + s.cfg.treset := by
  have hpos : 1 ≤ th s.cfg s.symbol := s.build.th_pos _
  rw [State.busyLeft_of_busy (by simp), State.laterCycles_of_high (s.enter_phase _ _), State.enter_cnt,
    Nat.max_eq_left hpos, cyclesFrom_of_lt _ _ (Nat.lt_succ_of_le hk), BitVec.ofNat_toNat, BitVec.setWidth_eq,
    pairCycles]
  simp only [State.symbol, State.enter_cfg, State.enter_frame, State.enter_bitidx, Nat.add_assoc]

theorem State.enter_rst_busyLeft (s : State) : (s.enter .rst s.cfg.treset).busyLeft = s.cfg.treset := by
  have hpos : 1 ≤ s.cfg.treset := s.build.treset_pos
  rw [State.busyLeft_of_busy (by simp), State.laterCycles_of_rst (s.enter_phase _ _), State.enter_cnt,
    Nat.max_eq_left hpos, Nat.add_zero]

theorem State.countDown_busyLeft {s : State} (hp : s.phase ≠ .idle) (hc : 1 < s.cnt) :
    s.countDown.busyLeft + 1 = s.busyLeft := by
  have hlater : s.countDown.laterCycles = s.laterCycles := rfl
  rw [State.busyLeft_of_busy hp, State.busyLeft_of_busy (s := s.countDown) hp, hlater, State.countDown_cnt]
  omega

theorem State.endSegment_busyLeft {s : State} (hp : s.phase ≠ .idle) : s.endSegment.busyLeft = s.laterCycles := by
  cases hq : s.phase
  case idle => exact absurd hq hp
  case high => rw [State.endSegment_of_high hq, State.laterCycles_of_high hq, State.enter_low_busyLeft]
  case low =>
    by_cases hk : 23 ≤ s.bitidx.toNat
    · rw [State.endSegment_of_low_last hq hk, State.laterCycles_of_low hq, cyclesFrom_of_ge _ _ (Nat.succ_le_succ hk),
        State.enter_rst_busyLeft, Nat.zero_add]
    · have hk' : s.bitidx.toNat < 23 := Nat.not_le.mp hk
      have hbit := s.nextSymbol_toNat hk'
      have hleft := State.enter_high_busyLeft (s := s.nextSymbol) (by omega)
      rw [hbit] at hleft
      rw [State.endSegment_of_low_next hq hk', State.laterCycles_of_low hq]
      exact hleft
  case rst =>
    rw [State.endSegment_of_rst hq, State.laterCycles_of_rst hq]
    exact State.busyLeft_of_idle rfl

/-- A cycle of a busy block without reset brings it one cycle nearer to `IDLE`. -/
theorem step_busyLeft {s t : State} (h : step s = .next t) (hr : s.input.rst = false) (hp : s.phase ≠ .idle) :
    t.busyLeft + 1 = s.busyLeft := by
  by_cases hc : 1 < s.cnt
  · rw [step_of_busy_counting hr hp hc] at h
    injection h with h
    rw [← h]
    exact State.countDown_busyLeft (s := s.nextInput) hp hc
  · rw [step_of_busy_last hr hp (Nat.not_lt.mp hc)] at h
    injection h with h
    rw [← h, State.endSegment_busyLeft (s := s.nextInput) hp, State.busyLeft_of_busy hp,
      Nat.max_eq_right (Nat.not_lt.mp hc)]
    exact Nat.add_comm _ _

/-- No reset in `n + 1` cycles: none in this one, none in the `n` after its step. -/
theorem noResetFor_succ_iff_of_step {s t : State} (n : Nat) (h : step s = .next t) :
    s.NoResetFor (n + 1) ↔ s.input.rst = false ∧ t.NoResetFor n := by
  obtain ⟨_, hinputs⟩ := step_build_inputs h
  rw [s.noResetFor_succ]
  simp only [State.NoResetFor, State.nextInput_inputs, hinputs]

/-- After `k` cycles without reset `k` fewer are left, until `IDLE`. -/
theorem run_busyLeft {k : Nat} {s t : State} (h : run k s = .next t) (hr : s.NoResetFor k) (hk : k ≤ s.busyLeft) :
    t.busyLeft + k = s.busyLeft := by
  induction k generalizing s with
  | zero =>
    injection h with h
    rw [h, Nat.add_zero]
  | succ k ih =>
    obtain ⟨u, hu⟩ := step_next s
    obtain ⟨hrst, hrest⟩ := (noResetFor_succ_iff_of_step k hu).mp hr
    have hp : s.phase ≠ .idle := fun hp => by
      rw [State.busyLeft_of_idle hp] at hk
      omega
    have hone := step_busyLeft hu hrst hp
    have hleft := ih (run_succ_of_step k hu ▸ h) hrest (by omega)
    omega

/-- Without reset no block is in `IDLE` before its busy time is over. -/
theorem busyLeft_le_of_run_idle {k : Nat} {s t : State} (h : run k s = .next t) (hr : s.NoResetFor k)
    (ht : t.phase = .idle) : s.busyLeft ≤ k := by
  by_contra hk
  have hleft := run_busyLeft h hr (by omega)
  rw [State.busyLeft_of_idle ht] at hleft
  omega

/-- The bound of 41_pulse R116. -/
theorem State.busyLeft_le (s : State) : s.busyLeft ≤ max s.cnt 1 + 24 * pairMax s.cfg + s.cfg.treset := by
  have hlater : s.laterCycles ≤ 24 * pairMax s.cfg + s.cfg.treset := by
    have hsymbols : cyclesFrom s.cfg s.frame (s.bitidx.toNat + 1) ≤ 23 * pairMax s.cfg :=
      (cyclesFrom_le _ _ _).trans (Nat.mul_le_mul_right _ (by omega))
    have hpair := th_add_tl_le_pairMax s.cfg s.symbol
    cases hp : s.phase
    case idle => simp [State.laterCycles, hp]
    case high => rw [State.laterCycles_of_high hp]; omega
    case low => rw [State.laterCycles_of_low hp]; omega
    case rst => rw [State.laterCycles_of_rst hp]; omega
  rw [State.busyLeft]
  split <;> omega

/-- Settles O37: the block is in `IDLE` when its busy time is over. -/
theorem everyStateReachesIdle : Obligations.EveryStateReachesIdle := by
  intro s hr
  obtain ⟨t, ht⟩ := run_next s.busyLeft s
  have hleft := run_busyLeft ht (hr.mono s.busyLeft_le) le_rfl
  exact ⟨s.busyLeft, s.busyLeft_le, t, ht, t.busyLeft_eq_zero_iff.mp (by omega)⟩

/-- An accepted SEND keeps the block busy for `D_SEND(c)` cycles (41_pulse R112). -/
theorem busyLeft_of_accepted_send {s t : State} (h : s.accepts = true) (hop : s.offeredOp = 0x01)
    (hstep : step s = .next t) : t.busyLeft = sendCycles s.cfg s.offeredColor := by
  rw [step_of_accepts_send h hop] at hstep
  injection hstep with hstep
  rw [← hstep]
  exact State.enter_high_busyLeft (s := s.nextInput.loadColor s.offeredColor) (Nat.zero_le _)

/-- An accepted HOLD keeps the block busy for `TRESET_CYC` cycles (42_commands R137). -/
theorem busyLeft_of_accepted_hold {s t : State} (h : s.accepts = true) (hop : s.offeredOp = 0x02)
    (hstep : step s = .next t) : t.busyLeft = s.cfg.treset := by
  rw [step_of_accepts_hold h hop] at hstep
  injection hstep with hstep
  rw [← hstep]
  exact s.nextInput.enter_rst_busyLeft

/-- From an accepting cycle on `IDLE` is seen only after the whole busy time. -/
theorem busyLeft_lt_of_run_idle {k : Nat} {s t u : State} (hstep : step s = .next u) (h1 : 1 ≤ k) (hr : s.NoResetFor k)
    (h : run k s = .next t) (ht : t.phase = .idle) : u.busyLeft < k := by
  obtain ⟨j, rfl⟩ := Nat.exists_eq_add_of_le' h1
  obtain ⟨_, hrest⟩ := (noResetFor_succ_iff_of_step j hstep).mp hr
  exact Nat.lt_succ_of_le (busyLeft_le_of_run_idle (run_succ_of_step j hstep ▸ h) hrest ht)

/-- Settles O36: the two commands that keep the block busy are over when it is ready, and no other keeps it busy. -/
theorem readyMeansComplete : Obligations.ReadyMeansComplete := by
  refine ⟨fun s hv hready hr => ?accept, fun s t h hstep hready => ?atOnce, fun s t k h h1 hr hrun hready => ?complete⟩
  case accept => exact s.accepts_iff.mpr ⟨hv, hr, s.cmdReady_iff.mp hready⟩
  case atOnce =>
    have hleft : t.busyLeft = 0 := t.busyLeft_eq_zero_iff.mpr (t.cmdReady_iff.mp hready)
    have hhold : 1 ≤ s.cfg.treset := s.build.treset_pos
    have hnotSend : s.offeredOp ≠ 0x01 := fun hop => by
      have hcycles : 0 = frameCycles s.cfg s.offeredColor + s.cfg.treset :=
        hleft.symm.trans (busyLeft_of_accepted_send h hop hstep)
      omega
    have hnotHold : s.offeredOp ≠ 0x02 := fun hop => by
      have hcycles := busyLeft_of_accepted_hold h hop hstep
      omega
    omega
  case complete =>
    obtain ⟨u, hu⟩ := step_next s
    have hlt := busyLeft_lt_of_run_idle hu h1 hr hrun (t.cmdReady_iff.mp hready)
    exact ⟨fun hop => busyLeft_of_accepted_send h hop hu ▸ hlt, fun hop => busyLeft_of_accepted_hold h hop hu ▸ hlt⟩

end Sys2Proof.Machine
end

section
/-! While the block is busy its registers but `err`, and the line, do not depend on the host (41_pulse R114). -/

namespace Sys2Proof.Machine

theorem State.SameWave.nextInput {s s' : State} (h : s.SameWave s') : s.nextInput.SameWave s'.nextInput := h

theorem State.SameWave.countDown {s s' : State} (h : s.SameWave s') : s.countDown.SameWave s'.countDown := by
  obtain ⟨hphase, hframe, hbit, hcnt, hbuild⟩ := h
  exact ⟨hphase, hframe, hbit, congrArg (· - 1) hcnt, hbuild⟩

/-- What follows a segment is made of the registers but `err`. -/
theorem State.SameWave.endSegment {s s' : State} (h : s.SameWave s') : s.endSegment.SameWave s'.endSegment := by
  obtain ⟨phase, frame, bitidx, cnt, err, build, inputs⟩ := s
  obtain ⟨phase', frame', bitidx', cnt', err', build', inputs'⟩ := s'
  obtain ⟨hphase, hframe, hbit, hcnt, hbuild⟩ := h
  simp only at hphase hframe hbit hcnt hbuild
  subst hphase hframe hbit hcnt hbuild
  cases phase
  case idle => exact ⟨rfl, rfl, rfl, rfl, rfl⟩
  case high => exact ⟨rfl, rfl, rfl, rfl, rfl⟩
  case low =>
    rw [State.endSegment, State.endSegment]
    simp only
    split <;> exact ⟨rfl, rfl, rfl, rfl, rfl⟩
  case rst => exact ⟨rfl, rfl, rfl, rfl, rfl⟩

theorem State.SameWave.step_busy {s s' t t' : State} (h : s.SameWave s') (hp : s.phase ≠ .idle)
    (hr : s.input.rst = false) (hr' : s'.input.rst = false) (ht : step s = .next t) (ht' : step s' = .next t') :
    t.SameWave t' := by
  obtain ⟨hphase, _, _, hcnt, _⟩ := id h
  rw [step_of_busy hr hp] at ht
  rw [step_of_busy hr' (hphase ▸ hp), ← hcnt] at ht'
  injection ht with ht
  injection ht' with ht'
  rw [← ht, ← ht']
  split
  · exact h.nextInput.countDown
  · exact h.nextInput.endSegment

theorem State.SameWave.dout_eq {s s' : State} (h : s.SameWave s') : s.dout = s'.dout := by
  rw [State.dout, State.dout, h.1]

/-- Settles O31: cycle by cycle, since the cycle of a busy block reads no offer. -/
theorem waveformIndependentOfHost : Obligations.WaveformIndependentOfHost := by
  intro n
  induction n with
  | zero =>
    intro s s' h _ _ _
    refine ⟨⟨s, s', rfl, rfl, h⟩, ?_⟩
    simp [lineTrace, trace_one, h.dout_eq]
  | succ n ih =>
    intro s s' h hr hr' hbusy
    obtain ⟨t, ht⟩ := step_next s
    obtain ⟨t', ht'⟩ := step_next s'
    obtain ⟨hrst, hrest⟩ := (noResetFor_succ_iff_of_step n ht).mp hr
    obtain ⟨hrst', hrest'⟩ := (noResetFor_succ_iff_of_step n ht').mp hr'
    have hp : s.phase ≠ .idle := s.busy_iff.mp (hbusy 0 n.succ_pos s rfl)
    have hlater : ∀ k, k < n → ∀ u, run k t = .next u → u.busy = true := fun k hk u hu =>
      hbusy (k + 1) (by omega) u ((run_succ_of_step k ht).trans hu)
    rw [run_succ_of_step n ht, run_succ_of_step n ht', lineTrace_succ_of_step _ ht, lineTrace_succ_of_step _ ht', h.dout_eq]
    obtain ⟨hend, hline⟩ := ih t t' (h.step_busy hp hrst hrst' ht ht') hrest hrest' hlater
    exact ⟨hend, congrArg _ hline⟩

end Sys2Proof.Machine
end

section
/-! The low line after a frame's last high cycle and after a reset (41_pulse R113). -/

namespace Sys2Proof.Machine

/-- In a reset hold the line is low for the cycles the counter says and one more, whatever follows: a further reset only
starts the hold again. -/
theorem resetHold_low {k : Nat} {s : State} (hp : s.phase = .rst) (hk : k ≤ s.cnt) (hc : s.cnt ≤ s.cfg.treset) :
    AfterCycles k s fun t => t.dout = false := by
  induction k generalizing s with
  | zero => exact ⟨s, rfl, by simp [State.dout, hp]⟩
  | succ k ih =>
    cases hr : s.input.rst
    case true =>
      rw [afterCycles_succ_iff_of_step k _ (step_of_rst hr)]
      exact ih rfl (Nat.le_of_succ_le (hk.trans hc)) le_rfl
    case false =>
      have hb : s.phase ≠ .idle := by simp [hp]
      by_cases hlast : s.cnt ≤ 1
      · obtain rfl : k = 0 := by omega
        refine ⟨_, (run_one s).trans (step_of_busy_last hr hb hlast), ?_⟩
        rw [State.endSegment_of_rst (s := s.nextInput) hp]
        rfl
      · rw [afterCycles_succ_iff_of_step k _ (step_of_busy_counting hr hb (Nat.not_le.mp hlast))]
        exact ih (s := s.nextInput.countDown) hp (Nat.le_sub_one_of_lt hk) ((Nat.sub_le _ _).trans hc)

/-- After a cycle with `rst = 1` the line is low for the hold and one more cycle (41_pulse R113). -/
theorem reset_low {k : Nat} {s : State} (hr : s.input.rst = true) (h1 : 1 ≤ k) (hk : k ≤ s.cfg.treset + 1) :
    AfterCycles k s fun t => t.dout = false := by
  obtain ⟨j, rfl⟩ := Nat.exists_eq_add_of_le' h1
  rw [afterCycles_succ_iff_of_step j _ (step_of_rst hr)]
  exact resetHold_low rfl (Nat.le_of_succ_le_succ hk) le_rfl

/-- From the start of the low segment of symbol 23 on the line is low for this segment, the hold and one more cycle. -/
theorem lastLow_low {k : Nat} {s : State} (hp : s.phase = .low) (hlast : 23 ≤ s.bitidx.toNat) (hs : s.AtSegmentStart)
    (hr : s.NoResetFor s.segmentCycles) (hk : k ≤ s.segmentCycles + s.cfg.treset) :
    AfterCycles k s fun t => t.dout = false := by
  obtain ⟨hduring, hend⟩ := segment_lasts (by simp [hp]) hs hr
  rcases Nat.lt_or_ge k s.segmentCycles with hlt | hge
  · exact (hduring k hlt).imp fun t ht => by simp [State.dout, ht, hp]
  · obtain ⟨j, rfl⟩ := Nat.exists_eq_add_of_le hge
    obtain ⟨hrst, hcfg⟩ := State.nextSegment_of_low_last hp hlast
    have hcnt : s.nextSegment.cnt = s.nextSegment.cfg.treset :=
      (State.nextSegment_atSegmentStart (by simp [hp])).trans (State.segmentCycles_of_rst hrst)
    rw [AfterCycles, run_add j hend]
    exact resetHold_low hrst (by rw [hcnt, hcfg]; omega) hcnt.le

/-- After the last high cycle of a frame the line is low for the last low segment, the hold and one more cycle. -/
theorem lastHigh_low {k : Nat} {s : State} (hp : s.phase = .high) (hlast : 23 ≤ s.bitidx.toNat) (hc : s.cnt ≤ 1)
    (hr : s.NoResetFor (tl s.cfg s.symbol + s.cfg.treset + 1)) (h1 : 1 ≤ k)
    (hk : k ≤ tl s.cfg s.symbol + s.cfg.treset + 1) : AfterCycles k s fun t => t.dout = false := by
  obtain ⟨hrst, hrest⟩ := (s.noResetFor_succ _).mp hr
  obtain ⟨j, rfl⟩ := Nat.exists_eq_add_of_le' h1
  have hstep := step_of_busy_last hrst (by simp [hp]) hc
  rw [State.endSegment_of_high (s := s.nextInput) hp] at hstep
  rw [afterCycles_succ_iff_of_step j _ hstep]
  exact lastLow_low (s := s.nextInput.enter .low (tl s.cfg s.symbol)) rfl hlast rfl
    (State.NoResetFor.mono (s := s.nextInput) hrest (Nat.le_add_right _ _)) (Nat.le_of_succ_le_succ hk)

/-- Settles O38: the low line of each part; W3 puts the hold above the minimum. -/
theorem resetGapByConstruction : Obligations.ResetGapByConstruction := by
  refine ⟨fun s hp hlast hc hr => ⟨?gap, fun k h1 hk => lastHigh_low hp hlast.ge hc hr h1 hk⟩,
    fun s hr k h1 hk => reset_low hr h1 hk⟩
  case gap =>
    have hw3 : s.cfg.resetMin ≤ s.cfg.treset := s.build.w3
    omega

end Sys2Proof.Machine
end

section
/-! The low runs inside a frame (41_pulse R115), read off the pulses on the line. -/

namespace Sys2Proof.Machine

/-- A pulse in front of a line that does not begin low is a high run and a low run. -/
theorem runs_line_append {p : Pulse} {o : List Bool} (hp : p.Proper) (ho : o.head? ≠ some false) :
    runs (p.line ++ o) = ⟨true, p.high, false⟩ :: ⟨false, p.low, o.isEmpty⟩ :: runs o := by
  obtain ⟨n, hn⟩ := Nat.exists_eq_add_of_le' hp.1
  obtain ⟨m, hm⟩ := Nat.exists_eq_add_of_le' hp.2
  have hlow := runs_replicate_append ho m
  have hhigh := runs_replicate_append (b := true) (o := List.replicate (m + 1) false ++ o)
    (by simp [List.replicate_succ]) n
  rw [Pulse.line, List.append_assoc, hn, hm, hhigh, hlow]
  simp [List.replicate_succ]

theorem runs_ne_nil {o : List Bool} (h : o ≠ []) : runs o ≠ [] := fun hnil => h (by
  have hhead := runs_head?_level o
  rw [hnil] at hhead
  exact List.head?_eq_none_iff.mp hhead.symm)

theorem flatMap_line_ne_nil (ps : List Pulse) {q : Pulse} (hq : q.Proper) : (ps ++ [q]).flatMap Pulse.line ≠ [] := by
  have hhigh : q.high ≠ 0 := Nat.one_le_iff_ne_zero.mp hq.1
  simp [Pulse.line, hhigh]

/-- A low run of pulses on the line, but for the last one, is the low of a pulse that has a following one. -/
theorem low_run_of_pulses {ps : List Pulse} {q : Pulse} (h : ∀ p ∈ ps ++ [q], p.Proper) {r : Run}
    (hr : r ∈ (runs ((ps ++ [q]).flatMap Pulse.line)).dropLast) (hlevel : r.level = false) :
    ∃ p ∈ ps, r.length = p.low := by
  induction ps with
  | nil =>
    have hq : q.Proper := h q (by simp)
    have hruns := runs_line_append (o := []) hq (by simp)
    rw [List.append_nil] at hruns
    simp only [List.nil_append, List.flatMap_singleton, hruns] at hr
    simp [List.mem_singleton.mp hr] at hlevel
  | cons p ps ih =>
    rw [List.cons_append, List.forall_mem_cons] at h
    obtain ⟨hp, hps⟩ := h
    have hne := runs_ne_nil (flatMap_line_ne_nil ps (hps q (by simp)))
    rw [List.cons_append, List.flatMap_cons, runs_line_append hp (head?_flatMap_line hps),
      List.dropLast_cons_of_ne_nil (by simp), List.dropLast_cons_of_ne_nil hne, List.mem_cons, List.mem_cons] at hr
    rcases hr with rfl | rfl | hr
    · exact nomatch hlevel
    · exact ⟨p, List.mem_cons_self, rfl⟩
    · obtain ⟨p', hp', hlen⟩ := ih hps hr
      exact ⟨p', List.mem_cons_of_mem _ hp', hlen⟩

/-- The runs of a SEND's line are the low run of its accepting cycle and those of its pulses. -/
theorem runs_sendLine_drop_one (b : Build) {color : Color} {xs : List Sym} {x : Sym} (h : enc color = xs ++ [x]) :
    (runs (sendLine b.cfg color)).drop 1 = runs ((heldPulses b.cfg xs x).flatMap Pulse.line) := by
  have hfirst := runs_replicate_append (head?_flatMap_line (heldPulses_proper b xs x)) 0
  rw [sendLine_eq_heldPulses h]
  exact congrArg (List.drop 1) hfirst

/-- Settles O39: the low runs of a SEND's line are the lows of its symbols, and W4 bounds these. -/
theorem noFalseResetInFrame : Obligations.NoFalseResetInFrame := by
  intro s h hop hr r hmem hlevel
  obtain ⟨_, hline⟩ := sendWaveform s h hop hr
  have hne : enc s.offeredColor ≠ [] := List.ne_nil_of_length_pos (by simp)
  obtain ⟨xs, x, henc⟩ := (List.eq_nil_or_concat' (enc s.offeredColor)).resolve_left hne
  have hruns : (runs (sendLine s.cfg s.offeredColor)).drop 1 = runs ((heldPulses s.cfg xs x).flatMap Pulse.line) :=
    runs_sendLine_drop_one s.build henc
  rw [hline, hruns] at hmem
  obtain ⟨p, hp, hlen⟩ := low_run_of_pulses (heldPulses_proper s.build xs x) hmem hlevel
  obtain ⟨y, _, rfl⟩ := List.mem_map.mp hp
  have hlow : r.length = tl s.cfg y := hlen
  refine ⟨?_, hlow ▸ s.build.tl_lt_resetMin y⟩
  cases y
  · exact .inl hlow
  · exact .inr hlow

end Sys2Proof.Machine
end

section
/-! A gap that is a reset gap cuts the line into frames, a shorter one does not (43_line R152, R156). -/

namespace Sys2Proof.Machine

/-- A low of a reset gap closes a frame; what follows is cut as if it stood alone. -/
theorem splitFrames_append_closed {g : Nat} {ps : List Pulse} {p : Pulse} (rest : List Pulse)
    (h : ∀ q ∈ ps, q.low < g) (hp : g ≤ p.low) :
    splitFrames g (ps ++ [p] ++ rest) = ⟨ps ++ [p], true⟩ :: splitFrames g rest := by
  induction ps with
  | nil =>
    rw [List.nil_append, List.singleton_append, splitFrames]
    cases splitFrames g rest with
    | nil => rw [consPulse_nil, decide_eq_true hp]
    | cons f fs => rw [consPulse_of_gap _ _ _ _ hp]
  | cons q ps ih =>
    obtain ⟨hq, hps⟩ := List.forall_mem_cons.mp h
    rw [List.cons_append, List.cons_append, splitFrames, ih hps, consPulse_of_no_gap _ _ _ _ hq]

@[simp] theorem gapAfter_concat (ps : List Pulse) (p : Pulse) : gapAfter (ps ++ [p]) = p.low := by
  simp [gapAfter]

/-- A configuration has a reset gap of at least one cycle (W4 of 41_pulse R102). -/
theorem resetMin_pos (b : Build) : 1 ≤ b.cfg.resetMin := Nat.one_le_of_lt (b.tl_lt_resetMin false)

theorem LineFrame.received_of_length_ne {c : Config} {f : LineFrame} (h : f.pulses.length ≠ frameBits) :
    f.received c = .malformed f.pulses.length := if_neg h

/-- A train of two frames is cut as the pulses of both. -/
theorem trainFrames_pair (b : Build) {f g : List Pulse} (h : ∀ p ∈ f ++ g, p.Proper) :
    trainFrames b.cfg [f, g] = splitFrames b.cfg.resetMin (f ++ g) := by
  obtain ⟨n, hn⟩ := Nat.exists_eq_add_of_le' (resetMin_pos b)
  have hline : trainLine b.cfg [f, g] = List.replicate (n + 1) false ++ (f ++ g).flatMap Pulse.line := by
    simp [trainLine, hn]
  rw [trainFrames, hline, lineFrames_gap_append_line hn.le h]

/-- Settles O51: the two frames as pulses but the last and the last, cut at the lows that are reset gaps. -/
theorem shortGapMergesFrames : Obligations.ShortGapMergesFrames := by
  intro b f g hf hg hproper hshort
  obtain ⟨ps, p, rfl⟩ := (List.eq_nil_or_concat' f).resolve_left hf
  obtain ⟨qs, q, rfl⟩ := (List.eq_nil_or_concat' g).resolve_left hg
  rw [List.dropLast_concat, List.dropLast_concat, List.forall_mem_append] at hshort
  obtain ⟨hps, hqs⟩ := hshort
  have hmerged (hgap : p.low < b.cfg.resetMin) : splitFrames b.cfg.resetMin (ps ++ [p] ++ (qs ++ [q])) =
      [⟨ps ++ [p] ++ (qs ++ [q]), decide (b.cfg.resetMin ≤ q.low)⟩] := by
    rw [← List.append_assoc]
    refine splitFrames_concat q ?_
    simp only [List.forall_mem_append, List.forall_mem_singleton]
    exact ⟨⟨hps, hgap⟩, hqs⟩
  simp only [gapAfter_concat, trainReceived, trainFrames_pair b hproper, gapConformant, Bool.and_true]
  refine ⟨fun hgap => ⟨?flagged, hmerged hgap, fun hlength => ?malformed⟩, fun hgap => ⟨decide_eq_true hgap, ?apart⟩⟩
  case flagged => exact decide_eq_false (Nat.not_le.mpr hgap)
  case malformed =>
    rw [← List.length_append] at hlength ⊢
    rw [hmerged hgap, List.map_singleton, LineFrame.received_of_length_ne hlength.ne']
  case apart => rw [splitFrames_append_closed _ hps hgap, splitFrames_concat _ hqs]

end Sys2Proof.Machine
end

section
/-! The line of whole commands: low cycles, and for each accepted SEND the pulses of its frame (43_line R158). -/

namespace Sys2Proof.Machine

/-- A frame on the line: its colour, and the low cycles between the end of its last symbol and the next frame. -/
structure SentFrame where
  color : Color
  hold : Nat

/-- Symbols 0 to 22 of a colour. -/
def leadingSymbols (color : Color) : List Sym := (List.range 23).map fun k => sym color (BitVec.ofNat 5 k)

theorem enc_eq_leadingSymbols_append (color : Color) : enc color = leadingSymbols color ++ [sym color 23] := by
  rw [enc, frameBits, List.range_succ, List.map_append]
  rfl

/-- The pulse of the last symbol, with the low cycles that follow it. -/
def SentFrame.lastPulse (c : Config) (f : SentFrame) : Pulse :=
  ⟨th c (sym f.color 23), tl c (sym f.color 23) + f.hold⟩

/-- The pulses of a frame. -/
def SentFrame.pulses (c : Config) (f : SentFrame) : List Pulse :=
  (leadingSymbols f.color).map (symbolPulse c) ++ [f.lastPulse c]

/-- What a line frame of these pulses is, closed by the hold. -/
def SentFrame.lineFrame (c : Config) (f : SentFrame) : LineFrame := ⟨f.pulses c, true⟩

theorem SentFrame.flatMap_line_pulses (c : Config) (f : SentFrame) :
    (f.pulses c).flatMap Pulse.line = (frameSlots c f.color).map Slot.level ++ List.replicate f.hold false := by
  simp [frameSlots_map_level, framePulses, enc_eq_leadingSymbols_append, SentFrame.pulses, SentFrame.lastPulse,
    symbolPulse, Pulse.line, List.flatMap_map]

theorem SentFrame.pulses_proper (b : Build) (f : SentFrame) : ∀ p ∈ f.pulses b.cfg, p.Proper := by
  rw [SentFrame.pulses, List.forall_mem_append, List.forall_mem_map, List.forall_mem_singleton]
  exact ⟨fun y _ => ⟨b.th_pos y, b.tl_pos y⟩, b.th_pos _, Nat.le_add_right_of_le (b.tl_pos _)⟩

/-- Symbols and then an exact last pulse are exact. -/
theorem pulsesExact_map_symbolPulse_append (b : Build) (xs : List Sym) {p : Pulse} (hp : pulsesExact b.cfg [p] = true) :
    pulsesExact b.cfg (xs.map (symbolPulse b.cfg) ++ [p]) = true := by
  induction xs with
  | nil => exact hp
  | cons x xs ih =>
    rw [List.map_cons, List.cons_append, pulsesExact_cons_append, ih]
    simp [symbolPulse]

theorem SentFrame.map_classify_pulses (b : Build) (f : SentFrame) :
    ((f.pulses b.cfg).map fun p => classify b.cfg p.high) = enc f.color := by
  simp [enc_eq_leadingSymbols_append, SentFrame.pulses, SentFrame.lastPulse, symbolPulse, Function.comp_def]

theorem SentFrame.received_lineFrame (b : Build) (f : SentFrame) :
    (f.lineFrame b.cfg).received b.cfg = .color f.color :=
  received_of_map_classify_eq_enc (f.map_classify_pulses b)

/-- With the whole hold after it a frame is exact (43_line R155). -/
theorem SentFrame.exact_lineFrame (b : Build) {f : SentFrame} (h : b.cfg.treset ≤ f.hold) :
    (f.lineFrame b.cfg).exact b.cfg = true := by
  have hlength : (f.pulses b.cfg).length = frameBits := by
    simpa [frameBits] using congrArg List.length (f.map_classify_pulses b)
  have hexact : pulsesExact b.cfg (f.pulses b.cfg) = true :=
    pulsesExact_map_symbolPulse_append b _ (by simp [pulsesExact, SentFrame.lastPulse, h])
  rw [LineFrame.exact, SentFrame.lineFrame, hlength, hexact]
  rfl

theorem SentFrame.resetMin_le_gapAfter (b : Build) {f : SentFrame} (h : b.cfg.treset ≤ f.hold) :
    b.cfg.resetMin ≤ gapAfter (f.pulses b.cfg) := by
  rw [SentFrame.pulses, gapAfter_concat]
  exact b.w3.trans (h.trans (Nat.le_add_left _ _))

/-- The frames with the whole hold after each are cut into just these frames. -/
theorem splitFrames_flatMap_pulses (b : Build) {fs : List SentFrame} (h : ∀ f ∈ fs, b.cfg.treset ≤ f.hold) :
    splitFrames b.cfg.resetMin (fs.flatMap (SentFrame.pulses b.cfg)) = fs.map (SentFrame.lineFrame b.cfg) := by
  induction fs with
  | nil => rfl
  | cons f fs ih =>
    obtain ⟨hf, hfs⟩ := List.forall_mem_cons.mp h
    have hshort : ∀ q ∈ (leadingSymbols f.color).map (symbolPulse b.cfg), q.low < b.cfg.resetMin :=
      List.forall_mem_map.mpr fun y _ => b.tl_lt_resetMin y
    have hgap := SentFrame.resetMin_le_gapAfter b hf
    rw [SentFrame.pulses, gapAfter_concat] at hgap
    rw [List.flatMap_cons, SentFrame.pulses, splitFrames_append_closed _ hshort hgap, ih hfs]
    rfl

theorem gapConformant_of_forall {c : Config} {train : List (List Pulse)} (h : ∀ f ∈ train, c.resetMin ≤ gapAfter f) :
    gapConformant c train = true := by
  induction train with
  | nil => rfl
  | cons f train ih =>
    obtain ⟨hf, htrain⟩ := List.forall_mem_cons.mp h
    cases train with
    | nil => rfl
    | cons g train => rw [gapConformant, ih htrain, decide_eq_true hf, Bool.and_true]

/-- The line is low cycles and then frames of these colours, each with its whole hold. -/
def ShowsColors (c : Config) (line : List Bool) (colors : List Color) : Prop :=
  ∃ (low : Nat) (fs : List SentFrame),
    line = List.replicate low false ++ (fs.flatMap (SentFrame.pulses c)).flatMap Pulse.line ∧
    (∀ f ∈ fs, c.treset ≤ f.hold) ∧ colors = fs.map SentFrame.color

theorem ShowsColors.nil (c : Config) : ShowsColors c [] [] := ⟨0, [], rfl, by simp, rfl⟩

theorem ShowsColors.low_append {c : Config} {line : List Bool} {colors : List Color} (n : Nat)
    (h : ShowsColors c line colors) : ShowsColors c (List.replicate n false ++ line) colors := by
  obtain ⟨low, fs, rfl, hfs, rfl⟩ := h
  exact ⟨n + low, fs, by rw [List.replicate_add, List.append_assoc], hfs, rfl⟩

theorem ShowsColors.frame_append {c : Config} {line : List Bool} {colors : List Color} (color : Color)
    (h : ShowsColors c line colors) :
    ShowsColors c ((frameSlots c color).map Slot.level ++ List.replicate c.treset false ++ line) (color :: colors) := by
  obtain ⟨low, fs, rfl, hfs, rfl⟩ := h
  refine ⟨0, ⟨color, c.treset + low⟩ :: fs, ?_, List.forall_mem_cons.mpr ⟨Nat.le_add_right _ _, hfs⟩, rfl⟩
  rw [List.flatMap_cons, List.flatMap_append, SentFrame.flatMap_line_pulses, List.replicate_add]
  simp only [List.replicate_zero, List.nil_append, List.append_assoc]

/-- After a reset gap the observer finds the frames, conformant and of their colours (43_line R152 to R156). -/
theorem ShowsColors.observed (b : Build) {line : List Bool} {colors : List Color}
    (h : ShowsColors b.cfg line colors) :
    ∃ fs : List SentFrame,
      lineFrames b.cfg (List.replicate b.cfg.treset false ++ line) = fs.map (SentFrame.lineFrame b.cfg) ∧
      (∀ f ∈ fs, b.cfg.treset ≤ f.hold) ∧ colors = fs.map SentFrame.color := by
  obtain ⟨low, fs, rfl, hfs, hcolors⟩ := h
  have hw3 := b.w3
  have hpos := b.treset_pos
  obtain ⟨n, hn⟩ : ∃ n, b.cfg.treset + low = n + 1 := Nat.exists_eq_add_of_le' (by omega)
  have hproper : ∀ p ∈ fs.flatMap (SentFrame.pulses b.cfg), p.Proper := fun p hp => by
    obtain ⟨f, _, hp⟩ := List.mem_flatMap.mp hp
    exact f.pulses_proper b p hp
  refine ⟨fs, ?_, hfs, hcolors⟩
  rw [← List.append_assoc, ← List.replicate_add, hn, lineFrames_gap_append_line (by omega) hproper,
    splitFrames_flatMap_pulses b hfs]

end Sys2Proof.Machine
end

section
/-! The commands an idle block passes through, each as a whole, and the colours it accepts (43_line R158). -/

namespace Sys2Proof.Machine

/-- The colour accepted in this cycle, if a SEND is. -/
def State.sentColor? (s : State) : Option Color := if s.accepts then (decode s.input.cmdWord).sendColor? else none

theorem sentColors_eq_filterMap (n : Nat) (s : State) : sentColors n s = (trace n s).filterMap State.sentColor? := by
  rw [sentColors, acceptLog, List.filterMap_filterMap]
  conv_rhs => rw [← List.zipIdx_map_fst 0 (trace n s), List.filterMap_map]
  congr 1
  funext ⟨u, i⟩
  simp only [State.sentColor?, Function.comp]
  split <;> rfl

theorem sentColors_add {m : Nat} {s t : State} (n : Nat) (h : run m s = .next t) :
    sentColors (m + n) s = sentColors m s ++ sentColors n t := by
  simp only [sentColors_eq_filterMap, trace_add n h, List.filterMap_append]

theorem lineTrace_add {m : Nat} {s t : State} (n : Nat) (h : run m s = .next t) :
    lineTrace (m + n) s = lineTrace m s ++ lineTrace n t := by
  simp only [lineTrace, trace_add n h, List.map_append]

theorem State.sentColor?_of_send {s : State} (h : s.accepts = true) (hop : s.offeredOp = 0x01) :
    s.sentColor? = some s.offeredColor := by
  rw [State.sentColor?, if_pos h, s.sendColor?_input, if_pos hop]

theorem State.sentColor?_of_not_send {s : State} (h : ¬(s.accepts = true ∧ s.offeredOp = 0x01)) :
    s.sentColor? = none := by
  rw [State.sentColor?]
  split
  case isTrue hacc => rw [s.sendColor?_input, if_neg fun hop => h ⟨hacc, hop⟩]
  case isFalse => rfl

/-- A busy block accepts nothing. -/
theorem State.sentColor?_of_busy {s : State} (h : s.slot.busy = true) : s.sentColor? = none := by
  have hp : s.phase ≠ .idle := s.busy_iff.mp (s.slot_busy ▸ h)
  exact State.sentColor?_of_not_send fun hsend => hp (s.phase_of_accepts hsend.1)

theorem sentColors_of_busy {n : Nat} {s : State} (h : ∀ x ∈ (trace n s).map State.slot, x.busy = true) :
    sentColors n s = [] := by
  rw [sentColors_eq_filterMap, List.filterMap_eq_nil_iff]
  exact fun _ hu => State.sentColor?_of_busy (h _ (List.mem_map_of_mem hu))

theorem sentColors_succ_of_step {s t : State} (n : Nat) (h : step s = .next t) :
    sentColors (n + 1) s = s.sentColor?.toList ++ sentColors n t := by
  rw [sentColors_eq_filterMap, sentColors_eq_filterMap, trace_succ_of_step n h, List.filterMap_cons]
  cases s.sentColor? <;> rfl

/-- One cycle of an idle block and the busy slots `w` after it, up to the next idle state `t`. -/
structure PlaysCommand (s : State) (w : List Slot) (t : State) : Prop where
  plays : Plays s (⟨.idle, none⟩ :: w) t
  idle : t.phase = .idle
  busy : ∀ x ∈ w, x.busy = true
  busyLeft : ∀ u, step s = .next u → u.busyLeft = w.length

theorem PlaysCommand.send {s : State} (h : s.accepts = true) (hop : s.offeredOp = 0x01) :
    ∃ t, PlaysCommand s (frameSlots s.cfg s.offeredColor ++ List.replicate s.cfg.treset ⟨.rst, none⟩) t := by
  obtain ⟨t, hplays, hidle⟩ := Plays.send h hop
  refine ⟨t, hplays, hidle, frameSlots_append_hold_busy _ _, fun u hu => ?_⟩
  rw [busyLeft_of_accepted_send h hop hu, List.length_append, frameSlots_length, List.length_replicate]
  rfl

theorem PlaysCommand.hold {s : State} (h : s.accepts = true) (hop : s.offeredOp = 0x02) :
    ∃ t, PlaysCommand s (List.replicate s.cfg.treset ⟨.rst, none⟩) t := by
  have haccept := Plays.of_step (step_of_accepts_hold h hop)
  rw [State.slot_of_idle (s.phase_of_accepts h)] at haccept
  have hhold := Plays.segment (s := s.nextInput.enter .rst s.cfg.treset) (by simp) rfl
  refine ⟨_, haccept.append hhold, State.nextSegment_of_rst rfl, fun x hx => ?_, fun u hu => ?_⟩
  · rw [List.eq_of_mem_replicate hx]
    rfl
  · rw [busyLeft_of_accepted_hold h hop hu, List.length_replicate]

theorem PlaysCommand.neither {s : State} (hp : s.phase = .idle) (hr : s.input.rst = false)
    (h : ¬(s.accepts = true ∧ (s.offeredOp = 0x01 ∨ s.offeredOp = 0x02))) : ∃ t, PlaysCommand s [] t := by
  obtain ⟨t, ht, hidle⟩ := afterCycles_one_idle_of_no_send_hold hp hr h
  rw [run_one] at ht
  refine ⟨t, State.slot_of_idle hp ▸ Plays.of_step ht, hidle, by simp, fun u hu => ?_⟩
  obtain rfl : t = u := by
    rw [ht] at hu
    injection hu
  exact State.busyLeft_of_idle hidle

/-- A window that starts with a command and ends in `IDLE` holds the command whole: its line, its colour if it is a SEND,
and then a window from the next idle state on. -/
theorem PlaysCommand.window {n : Nat} {s t : State} {w : List Slot} (h : PlaysCommand s w t)
    (hr : s.NoResetFor (n + 1)) (hend : AfterCycles (n + 1) s fun u => u.phase = .idle) :
    ∃ m, m ≤ n ∧ t.build = s.build ∧ t.NoResetFor m ∧ (AfterCycles m t fun u => u.phase = .idle) ∧
      lineTrace (n + 1) s = false :: (w.map Slot.level ++ lineTrace m t) ∧
      sentColors (n + 1) s = s.sentColor?.toList ++ sentColors m t := by
  obtain ⟨v, hv, hidle⟩ := hend
  obtain ⟨u, hu⟩ := step_next s
  have hlt := busyLeft_lt_of_run_idle hu n.succ_pos hr hv hidle
  rw [h.busyLeft u hu] at hlt
  obtain ⟨m, hm⟩ : ∃ m, n + 1 = w.length + 1 + m := Nat.exists_eq_add_of_le hlt
  rw [hm] at hr hv ⊢
  obtain ⟨hrun, hslots⟩ := h.plays (hr.mono (Nat.le_add_right _ _))
  rw [List.length_cons] at hrun hslots
  obtain ⟨hbuild, _⟩ := run_build_inputs hrun
  rw [State.noResetFor_add_iff m hrun] at hr
  have hslots' : (trace w.length u).map State.slot = w := by
    rw [trace_succ_of_step _ hu, List.map_cons] at hslots
    exact (List.cons.inj hslots).2
  refine ⟨m, by omega, hbuild, hr.2, ⟨v, (run_add m hrun).symm.trans hv, hidle⟩, ?line, ?colors⟩
  case line =>
    rw [lineTrace_add m hrun, lineTrace_eq_map_level, hslots]
    rfl
  case colors =>
    rw [sentColors_add m hrun, sentColors_succ_of_step _ hu, sentColors_of_busy (hslots'.symm ▸ h.busy), List.append_nil]

end Sys2Proof.Machine
end

section
/-! Every window from `S_RESET` that ends in `IDLE` (43_line R158). -/

namespace Sys2Proof.Machine

theorem map_level_hold (n : Nat) :
    (List.replicate n (Slot.mk .rst none)).map Slot.level = List.replicate n false := List.map_replicate

/-- From one idle state to another, without reset: low cycles and the frames of the SENDs accepted. -/
theorem showsColors_of_idle {n : Nat} {s : State} (hp : s.phase = .idle) (hr : s.NoResetFor n)
    (hend : AfterCycles n s fun u => u.phase = .idle) : ShowsColors s.cfg (lineTrace n s) (sentColors n s) := by
  induction n using Nat.strong_induction_on generalizing s with
  | _ n ih =>
    cases n with
    | zero => exact ShowsColors.nil s.cfg
    | succ n =>
      have hrst : s.input.rst = false := ((s.noResetFor_succ n).mp hr).1
      have hnext {w : List Slot} {t : State} (h : PlaysCommand s w t) : ∃ m,
          ShowsColors s.cfg (lineTrace m t) (sentColors m t) ∧
          lineTrace (n + 1) s = false :: (w.map Slot.level ++ lineTrace m t) ∧
          sentColors (n + 1) s = s.sentColor?.toList ++ sentColors m t := by
        obtain ⟨m, hm, hbuild, hr', hend', hline, hcolors⟩ := h.window hr hend
        have hcfg : t.cfg = s.cfg := congrArg Build.cfg hbuild
        exact ⟨m, hcfg ▸ ih m (Nat.lt_succ_of_le hm) h.idle hr' hend', hline, hcolors⟩
      by_cases hsend : s.accepts = true ∧ s.offeredOp = 0x01
      · obtain ⟨t, ht⟩ := PlaysCommand.send hsend.1 hsend.2
        obtain ⟨m, hshows, hline, hcolors⟩ := hnext ht
        rw [hline, hcolors, State.sentColor?_of_send hsend.1 hsend.2, List.map_append, map_level_hold]
        exact (hshows.frame_append s.offeredColor).low_append 1
      · rw [State.sentColor?_of_not_send hsend] at hnext
        by_cases hhold : s.accepts = true ∧ s.offeredOp = 0x02
        · obtain ⟨t, ht⟩ := PlaysCommand.hold hhold.1 hhold.2
          obtain ⟨m, hshows, hline, hcolors⟩ := hnext ht
          rw [hline, hcolors, map_level_hold]
          exact hshows.low_append (s.cfg.treset + 1)
        · obtain ⟨t, ht⟩ := PlaysCommand.neither hp hrst fun ⟨hacc, hop⟩ =>
            hop.elim (fun hop => hsend ⟨hacc, hop⟩) fun hop => hhold ⟨hacc, hop⟩
          obtain ⟨m, hshows, hline, hcolors⟩ := hnext ht
          rw [hline, hcolors]
          exact hshows.low_append 1

/-- From `S_RESET` the hold comes first. -/
theorem showsColors_of_resetFor {b : Build} {inputs : Inputs} {n : Nat} (hr : (State.resetFor b inputs).NoResetFor n)
    (hend : AfterCycles n (State.resetFor b inputs) fun t => t.phase = .idle) :
    ∃ line, lineTrace n (State.resetFor b inputs) = List.replicate b.cfg.treset false ++ line ∧
      ShowsColors b.cfg line (sentColors n (State.resetFor b inputs)) := by
  obtain ⟨v, hv, hidle⟩ := hend
  have hleft : (State.resetFor b inputs).busyLeft = b.cfg.treset := (State.resetFor b inputs).enter_rst_busyLeft
  have hle := busyLeft_le_of_run_idle hv hr hidle
  rw [hleft] at hle
  obtain ⟨m, rfl⟩ := Nat.exists_eq_add_of_le hle
  have hplays := Plays.segment (s := State.resetFor b inputs) (by simp) rfl
  rw [State.segmentCycles_of_rst rfl, State.slot_of_rst rfl, State.resetFor_cfg] at hplays
  rw [Plays, List.length_replicate] at hplays
  obtain ⟨hrun, hslots⟩ := hplays (hr.mono hle)
  rw [State.noResetFor_add_iff m hrun] at hr
  obtain ⟨hbuild, _⟩ := run_build_inputs hrun
  have hcfg : (State.resetFor b inputs).nextSegment.cfg = b.cfg := congrArg Build.cfg hbuild
  have hshows := showsColors_of_idle (State.nextSegment_of_rst rfl) hr.2 ⟨v, (run_add m hrun).symm.trans hv, hidle⟩
  refine ⟨lineTrace m (State.resetFor b inputs).nextSegment, ?line, ?colors⟩
  case line => rw [lineTrace_add m hrun, lineTrace_eq_map_level, hslots, map_level_hold]
  case colors =>
    have hnone : sentColors b.cfg.treset (State.resetFor b inputs) = [] := sentColors_of_busy fun x hx => by
      rw [hslots] at hx
      rw [List.eq_of_mem_replicate hx]
      rfl
    rw [sentColors_add m hrun, hnone, ← hcfg]
    exact hshows

/-- Settles O45: the window shows the hold and then the frames of the accepted colours, which the observer finds. -/
theorem blockConformance : Obligations.BlockConformance := by
  intro b inputs n hr hend
  obtain ⟨line, hline, hshows⟩ := showsColors_of_resetFor hr hend
  obtain ⟨fs, hframes, hhold, hcolors⟩ := hshows.observed b
  rw [← hline] at hframes
  refine ⟨?conformant, ?received, ?gaps⟩
  case conformant =>
    rw [ConformantLine, State.resetFor_cfg, hframes, List.forall_mem_map]
    exact fun f hf => ⟨rfl, SentFrame.exact_lineFrame b (hhold f hf)⟩
  case received =>
    rw [receivedFrames, State.resetFor_cfg, hframes, hcolors, List.map_map, List.map_map]
    exact List.map_congr_left fun f _ => f.received_lineFrame b
  case gaps =>
    rw [hframes, List.map_map]
    exact gapConformant_of_forall (List.forall_mem_map.mpr fun f hf => SentFrame.resetMin_le_gapAfter b (hhold f hf))

end Sys2Proof.Machine
end
